-- ==== Sys2Proof/Word.lean ====
section
/-! DEFINITION. The word types of the block (spec/00_scope.md R7, R8; spec/30_encoding.md R72): every quantity is
unsigned and bits are numbered from 0 at the least significant bit. -/

namespace Sys2Proof

/-- One byte of a frame or buffer, and every 8-bit register or field (R8, R56). -/
abbrev Byte := BitVec 8

/-- A command word (30_encoding.md R72). -/
abbrev CmdWord := BitVec 16

/-- A duration or countdown: `W_T` = 32 bits, unsigned (00_scope.md R7). -/
abbrev Dur := BitVec 32

/-- A channel index as the command word carries it (R72). -/
abbrev ChIdx := BitVec 8

end Sys2Proof
end

