-- ==== Sys2Proof/Syntax.lean ====
section
/-! DEFINITION. The commands of the block, one constructor per row of spec/opcode_table.json and in its order
(spec/30_encoding.md R73). The operands that do not fit the word travel on the side ports (R82) and stand in the state. -/

namespace Sys2Proof

/-- A command. `ch` is the channel field of the word (R72). -/
inductive Instr where
  /-- INIT, R150. -/
  | init
  /-- DEINIT, R151. -/
  | deinit
  /-- NETREQ, R152. -/
  | netreq (ch : ChIdx)
  /-- NETREL, R153. -/
  | netrel (ch : ChIdx)
  /-- ENCOM, R155. -/
  | encom (ch : ChIdx)
  /-- DISCOM, R156. -/
  | discom (ch : ChIdx)
  /-- SETUD, R180. -/
  | setud (ch : ChIdx)
  /-- GETUD, R181. -/
  | getud (ch : ChIdx)
  /-- GETNID, R182. -/
  | getnid (ch : ChIdx)
  /-- GETLNID, R183. -/
  | getlnid (ch : ChIdx)
  /-- RMREQ, R157. -/
  | rmreq (ch : ChIdx)
  /-- GETPDU, R184. -/
  | getpdu (ch : ChIdx)
  /-- GETST, R161. -/
  | getst (ch : ChIdx)
  /-- BUSSYNC, R158. -/
  | bussync (ch : ChIdx)
  /-- CHKRSI, R159. -/
  | chkrsi (ch : ChIdx)
  /-- SETSRB, R160. -/
  | setsrb (ch : ChIdx)
  /-- TXCONF, R186; `failed` is `arg[0]`, 0 success and 1 failure. -/
  | txconf (failed : Bool) (ch : ChIdx)
  /-- RXIND, R187. -/
  | rxind (ch : ChIdx)
  /-- PNCONF, R162. -/
  | pnconf (ch : ChIdx)
  /-- TRIGTX, R185. -/
  | trigtx (ch : ChIdx)
  /-- TICK, R200. -/
  | tick
  /-- PSTART, R154. -/
  | pstart (ch : ChIdx)
deriving DecidableEq, Repr

end Sys2Proof
end

