-- ==== Sys2Proof/WellFormed.lean ====
section
/-! DEFINITION. When a command is well formed for a block of `nCh` channels (spec/30_encoding.md R75). What R75 asks of the
`arg` field, and of the `ch` field of a command that carries no channel, the type `Instr` has no room to break: the decoder
rejects those words by name. -/

namespace Sys2Proof

/-- The channel a command addresses, if it carries one (R75: INIT, DEINIT and TICK carry none). -/
def Instr.channel? : Instr → Option ChIdx
  | .init => none
  | .deinit => none
  | .netreq ch => some ch
  | .netrel ch => some ch
  | .encom ch => some ch
  | .discom ch => some ch
  | .setud ch => some ch
  | .getud ch => some ch
  | .getnid ch => some ch
  | .getlnid ch => some ch
  | .rmreq ch => some ch
  | .getpdu ch => some ch
  | .getst ch => some ch
  | .bussync ch => some ch
  | .chkrsi ch => some ch
  | .setsrb ch => some ch
  | .txconf _ ch => some ch
  | .rxind ch => some ch
  | .pnconf ch => some ch
  | .trigtx ch => some ch
  | .tick => none
  | .pstart ch => some ch

/-- R75: a command that carries a channel names one below `N_CH`. -/
def Instr.wf (nCh : Nat) (i : Instr) : Bool :=
  match i.channel? with
  | none => true
  | some ch => decide (ch.toNat < nCh)

end Sys2Proof
end

