-- ==== Sys2Proof/Decode.lean ====
section
/-! DEFINITION. The decoder and the encoder of command words (spec/30_encoding.md R72 to R75). -/

namespace Sys2Proof

/-- Why a word is not a command (R74, R75); the block answers each with `E_ILLEGAL`. -/
inductive DecodeError where
  /-- Opcode 0x00 or 0x17 to 0x1F (R74). -/
  | reservedOpcode
  /-- `arg` is not 0, or for TXCONF `arg[2:1]` is not 0 (R75). -/
  | reservedArg
  /-- INIT, DEINIT or TICK with `ch` not 0 (R75). -/
  | reservedChannel
deriving DecidableEq, Repr

/-- Bits 15:11 of the word (R72). -/
def opField (w : CmdWord) : BitVec 5 := w.extractLsb' 11 5

/-- Bits 10:8 of the word (R72). -/
def argField (w : CmdWord) : BitVec 3 := w.extractLsb' 8 3

/-- Bits 7:0 of the word (R72). -/
def chField (w : CmdWord) : ChIdx := w.extractLsb' 0 8

/-- A command without a channel: `arg` and `ch` must be 0 (R75). -/
def decodeGlobal (w : CmdWord) (i : Instr) : Except DecodeError Instr :=
  if argField w ≠ 0 then .error .reservedArg
  else if chField w ≠ 0 then .error .reservedChannel
  else .ok i

/-- A command on a channel: `arg` must be 0 (R75). -/
def decodeChannel (w : CmdWord) (i : ChIdx → Instr) : Except DecodeError Instr :=
  if argField w ≠ 0 then .error .reservedArg else .ok (i (chField w))

/-- TXCONF: `arg[2:1]` must be 0, `arg[0]` is the result (R75, R186). -/
def decodeResult (w : CmdWord) (i : Bool → ChIdx → Instr) : Except DecodeError Instr :=
  if (argField w).extractLsb' 1 2 ≠ 0 then .error .reservedArg
  else .ok (i ((argField w).getLsbD 0) (chField w))

/-- The opcode map of R73, with the reserved opcodes of R74 rejected. -/
def decode (w : CmdWord) : Except DecodeError Instr :=
  match (opField w).toNat with
  | 0x01 => decodeGlobal w .init
  | 0x02 => decodeGlobal w .deinit
  | 0x03 => decodeChannel w .netreq
  | 0x04 => decodeChannel w .netrel
  | 0x05 => decodeChannel w .encom
  | 0x06 => decodeChannel w .discom
  | 0x07 => decodeChannel w .setud
  | 0x08 => decodeChannel w .getud
  | 0x09 => decodeChannel w .getnid
  | 0x0A => decodeChannel w .getlnid
  | 0x0B => decodeChannel w .rmreq
  | 0x0C => decodeChannel w .getpdu
  | 0x0D => decodeChannel w .getst
  | 0x0E => decodeChannel w .bussync
  | 0x0F => decodeChannel w .chkrsi
  | 0x10 => decodeChannel w .setsrb
  | 0x11 => decodeResult w .txconf
  | 0x12 => decodeChannel w .rxind
  | 0x13 => decodeChannel w .pnconf
  | 0x14 => decodeChannel w .trigtx
  | 0x15 => decodeGlobal w .tick
  | 0x16 => decodeChannel w .pstart
  | _ => .error .reservedOpcode

/-- `{op, arg, ch}` as one word (R72). -/
def packWord (op : BitVec 5) (arg : BitVec 3) (ch : ChIdx) : CmdWord := op ++ arg ++ ch

/-- The word of a command, from the opcode map of R73. -/
def encode : Instr → CmdWord
  | .init => packWord 0x01 0 0
  | .deinit => packWord 0x02 0 0
  | .netreq ch => packWord 0x03 0 ch
  | .netrel ch => packWord 0x04 0 ch
  | .encom ch => packWord 0x05 0 ch
  | .discom ch => packWord 0x06 0 ch
  | .setud ch => packWord 0x07 0 ch
  | .getud ch => packWord 0x08 0 ch
  | .getnid ch => packWord 0x09 0 ch
  | .getlnid ch => packWord 0x0A 0 ch
  | .rmreq ch => packWord 0x0B 0 ch
  | .getpdu ch => packWord 0x0C 0 ch
  | .getst ch => packWord 0x0D 0 ch
  | .bussync ch => packWord 0x0E 0 ch
  | .chkrsi ch => packWord 0x0F 0 ch
  | .setsrb ch => packWord 0x10 0 ch
  | .txconf failed ch => packWord 0x11 (if failed then 1 else 0) ch
  | .rxind ch => packWord 0x12 0 ch
  | .pnconf ch => packWord 0x13 0 ch
  | .trigtx ch => packWord 0x14 0 ch
  | .tick => packWord 0x15 0 0
  | .pstart ch => packWord 0x16 0 ch

/-- The command that the first `nbits` bits of `w` stand for, every higher bit taken as 0. A command is one 16-bit word
(R72), so a number of more bits is no command. -/
def decodeTableWord (nbits w : Nat) : Option Instr :=
  if w % 2 ^ nbits < 2 ^ 16 then (decode (BitVec.ofNat 16 (w % 2 ^ nbits))).toOption else none

end Sys2Proof
end

