-- ==== Sys2Proof/Config.lean ====
section
/-! DEFINITION. What an implementation of the block fixes: the parameters of spec/00_scope.md R7 and
spec/93_implementation_defined.md U9. The open ones are gathered in `Params`, which the state carries as plain data, so
that a statement about every state is a statement about every value of them (notes/assumptions/5.md). -/

namespace Sys2Proof

/-- The five timers of a channel, in the order of 10_state.md R21 and 30_encoding.md R78. -/
inductive TimerSel where
  | timeout | msgCycle | repeatMsg | waitBusSleep | remoteSleep
deriving DecidableEq, Repr

/-- The open parameters of R7 other than the number of channels, which is the length of the state's channel list. -/
structure Params where
  /-- `ABSENT`: the byte position that means "field absent". -/
  absent : Byte
  /-- `MAX_LEN`: the largest frame length in bytes. -/
  maxLen : Nat
  /-- `CBV_RMR`: bit number of the repeat-message-request bit (R79). -/
  cbvRmr : Fin 8
  /-- `CBV_CSR`: bit number of the coordinator-sleep-ready bit (R79). -/
  cbvCsr : Fin 8
  /-- `CBV_AW`: bit number of the active-wakeup bit (R79). -/
  cbvAw : Fin 8
  /-- `TICK_ORDER`: the order in which TICK visits the timers of a channel (R7, R202). -/
  tickOrder : List TimerSel
deriving DecidableEq, Repr

/-- `TICK_ORDER` of R7: the order in which the source lists the timers. -/
def Config.tickOrder : List TimerSel :=
  [.timeout, .msgCycle, .repeatMsg, .waitBusSleep, .remoteSleep]

/-- The values R7 gives the open parameters. DESIGN CHOICE: they are the spec's defaults, and `ABSENT`, `MAX_LEN` and the
bit numbers are marked there as general knowledge (notes/assumptions/5.md). -/
def Config.params : Params where
  absent := 0xFF
  maxLen := 8
  cbvRmr := 0
  cbvCsr := 3
  cbvAw := 4
  tickOrder := Config.tickOrder

/-- Parameters that make sense: the sentinel is no legal position (92 D8), a frame fits an 8-bit length, the three named
bits are different bits (R79), and TICK visits each timer exactly once (R200). -/
def Params.wf (p : Params) : Bool :=
  decide (1 ≤ p.maxLen) && decide (p.maxLen ≤ p.absent.toNat)
    && decide (p.cbvRmr ≠ p.cbvCsr) && decide (p.cbvRmr ≠ p.cbvAw) && decide (p.cbvCsr ≠ p.cbvAw)
    && decide (p.tickOrder.Nodup) && decide (p.tickOrder.length = 5)

/-- `N_CH` of the one reset state the host's interface asks for. DESIGN CHOICE: R7 leaves `N_CH` a model argument from 1
to 256 (notes/assumptions/4.md); `State.resetOf` takes it as one. -/
def Config.nCh : Nat := 2

/-- `NONE`: the receive index that means "no frame received" (R7, 10_state.md R16). -/
def Config.rxNone : Byte := 0xFF

end Sys2Proof
end

