-- ==== Sys2Proof/Machine/State.lean ====
section
/-! DEFINITION. The state of the block as plain data (spec/10_state.md), the reasons a step can stop, and the state after
hardware reset (R40, spec/70_reset_and_hazards.md R240). -/

namespace Sys2Proof.Machine

open Sys2Proof

/-- Why the machine stops with a fault. Neither arises in a state reached from reset (20_memory.md R57, 60_exceptions.md
R216). -/
inductive Fault where
  /-- A byte of TX or RX that has no value is read: `readTx`, `readTxFrame` and `readRx` raise it. Safe: 93 U4 and U5 hold
  such bytes as "no value" and no rule reads them. -/
  | noValue
  /-- A position outside its buffer is accessed: `readTx`, `writeTx`, `storeRx` and `readRx` raise it. Safe: R57 says only
  an illegal configuration can cause it, and 93 U1 gives that no behaviour. -/
  | outsideBuffer
deriving DecidableEq, Repr

/-- Why the model gives a command no meaning. -/
inductive Refusal where
  /-- An instruction whose meaning is not written yet: raised by `exec`'s arms alone. Safe. -/
  | notModelled (mnemonic : String)
  /-- INIT with a record that breaks 10_state.md R36: raised by `execInit`. Safe: 93 U1 refuses it. -/
  | illegalConfiguration
  /-- INIT with a number of channel records that is not `N_CH`: raised by `execInit`. Safe: the `cfg` port carries exactly
  that many (R150, R82). -/
  | configurationShape
  /-- SETUD or RXIND with a stream of the wrong length: raised by `requireStream`. Safe: R82 and 93 U8 refuse it. -/
  | streamLength
  /-- A transmit request for which no bus answer was supplied: raised by `busTx`. Safe: 93 U8 refuses it. -/
  | noBusAnswer
deriving DecidableEq, Repr

/-- R11: the mode of a channel; the encoding is `Mode.code` (R76). -/
inductive Mode where
  | busSleep | prepareBusSleep | network
deriving DecidableEq, Repr

/-- R12: the state of a channel; the encoding is `NmState.code` (R77). -/
inductive NmState where
  | uninit | busSleep | prepareBusSleep | repeatMessage | normalOperation | readySleep
deriving DecidableEq, Repr

/-- R80: the result codes; the encoding is `ResultCode.code`. -/
inductive ResultCode where
  | ok | ePrecond | eBus | eIllegal
deriving DecidableEq, Repr

/-- R81: the output events. A transmit request and a forwarded frame carry the frame. -/
inductive Event where
  | networkStart (ch : ChIdx)
  | networkMode (ch : ChIdx)
  | prepareBusSleep (ch : ChIdx)
  | busSleep (ch : ChIdx)
  | stateChange (ch : ChIdx) (old new : NmState)
  | rsiInd (ch : ChIdx)
  | rsiCancel (ch : ChIdx)
  | txTimeout (ch : ChIdx)
  | txReq (ch : ChIdx) (frame : List Byte)
  | udRx (ch : ChIdx) (frame : List Byte)
  | udTxConf (ch : ChIdx) (failed : Bool)
deriving DecidableEq, Repr

/-- R20: a timer. -/
structure Timer where
  run : Bool
  cnt : Dur
deriving DecidableEq, Repr

/-- R21: the five timers of a channel. -/
structure TimerArray where
  timeout : Timer
  msgCycle : Timer
  repeatMsg : Timer
  waitBusSleep : Timer
  remoteSleep : Timer
deriving DecidableEq, Repr

/-- The channel configuration record (R30 to R33). -/
structure ChanCfg where
  /-- `c.aw_en` -/
  awEn : Bool
  /-- `c.nd_en` -/
  ndEn : Bool
  /-- `c.nid_en` -/
  nidEn : Bool
  /-- `c.blr_en` -/
  blrEn : Bool
  /-- `c.pn_en` -/
  pnEn : Bool
  /-- `c.imm_tx_en` -/
  immTxEn : Bool
  /-- `c.multi_req_en` -/
  multiReqEn : Bool
  /-- `c.t_timeout` -/
  tTimeout : Dur
  /-- `c.t_msg_cycle` -/
  tMsgCycle : Dur
  /-- `c.t_msg_offset` -/
  tMsgOffset : Dur
  /-- `c.t_repeat` -/
  tRepeat : Dur
  /-- `c.t_wbs` -/
  tWbs : Dur
  /-- `c.t_rsi` -/
  tRsi : Dur
  /-- `c.t_reduced` -/
  tReduced : Dur
  /-- `c.t_imm_cycle` -/
  tImmCycle : Dur
  /-- `c.imm_tx_count` -/
  immTxCount : Byte
  /-- `c.nid_pos` -/
  nidPos : Byte
  /-- `c.cbv_pos` -/
  cbvPos : Byte
  /-- `c.node_id` -/
  nodeId : Byte
  /-- `c.tx_len` -/
  txLen : Byte
  /-- `c.rx_len` -/
  rxLen : Byte
  /-- `c.rx_depth` -/
  rxDepth : Byte
deriving DecidableEq, Repr

/-- The global configuration record (R34). -/
structure GlobCfg where
  /-- `g.passive` -/
  passive : Bool
  /-- `g.rsi_support` -/
  rsiSupport : Bool
  /-- `g.state_change_ind` -/
  stateChangeInd : Bool
  /-- `g.user_data_en` -/
  userDataEn : Bool
  /-- `g.ud_external` -/
  udExternal : Bool
  /-- `g.pn_global` -/
  pnGlobal : Bool
  /-- `g.imm_restart` -/
  immRestart : Bool
  /-- `g.coord_sync` -/
  coordSync : Bool
  /-- `g.tick_period` -/
  tickPeriod : Dur
deriving DecidableEq, Repr

/-- The record on the `cfg` port: one global record and one record per channel (R71, R150). -/
structure CfgRecord where
  glob : GlobCfg
  chans : List ChanCfg
deriving DecidableEq, Repr

/-- One byte buffer: its cells with strictly rising addresses. An address with no cell has no value (93 U4, U5;
notes/assumptions/2.md). Addresses are those of `txAddr` and `rxAddr`. -/
abbrev Memory := List Host.Cell

/-- The canonical form of a buffer. -/
abbrev Memory.wf (m : Memory) : Prop := (m.map Prod.fst).Pairwise (· < ·)

/-- A channel: its latched configuration, its runtime record and its two buffers (R10). -/
structure Channel where
  cfg : ChanCfg
  mode : Mode
  state : NmState
  requested : Bool
  txEnabled : Bool
  rxLast : Byte
  immTxCnt : Byte
  blrActive : Bool
  rsiIndicated : Bool
  rsiEnabled : Bool
  pnConfirmed : Bool
  tm : TimerArray
  tx : Memory
  rx : Memory
deriving DecidableEq, Repr

/-- The side ports that carry a command's operands (R71, R82). -/
structure Operands where
  /-- `cmd_cap` -/
  cap : Byte
  /-- the `din` stream, byte 0 first -/
  din : List Byte
  /-- the `cfg` port -/
  cfg : CfgRecord
  /-- the answers of the bus interface, in the order the command consumes them; `true` is success -/
  back : List Bool
deriving DecidableEq, Repr

/-- A command as the outside presents it: the word and its operands. -/
structure Command where
  word : CmdWord
  operands : Operands
deriving DecidableEq, Repr

/-- What reaches the block from outside: a command on the command port (R70), or the reset pin (R240). -/
inductive Input where
  | command (c : Command)
  | rst
deriving DecidableEq, Repr

/-- The response to one command (R71): `rsp_code`, `rsp_val`, the `dout` stream and the events in the order emitted. -/
structure Response where
  code : ResultCode
  val : Byte
  dout : List Byte
  events : List Event
deriving DecidableEq, Repr

/-- The state of the block. `params`, `operands`, `port` and `rsp` are the model's own fields (INVENTORY.md, State). -/
structure State where
  /-- the open parameters of R7; no step writes them -/
  params : Params
  /-- the latched global configuration record (R10, R34) -/
  glob : GlobCfg
  /-- the `N_CH` channels (R10) -/
  chans : List Channel
  /-- the operands of the command being run -/
  operands : Operands
  /-- the response to the last command, none before the first -/
  rsp : Option Response
  /-- the inputs still to come, the next one first -/
  port : List Input
deriving DecidableEq, Repr

/-- `N_CH` of this block. -/
def State.nCh (s : State) : Nat := s.chans.length

/-- The value the model gives the channel configuration registers at reset. DESIGN CHOICE, unsafe: R35 and R40 give none
and no rule reads them before INIT (notes/assumptions/1.md). -/
def ChanCfg.zero : ChanCfg where
  awEn := false
  ndEn := false
  nidEn := false
  blrEn := false
  pnEn := false
  immTxEn := false
  multiReqEn := false
  tTimeout := 0
  tMsgCycle := 0
  tMsgOffset := 0
  tRepeat := 0
  tWbs := 0
  tRsi := 0
  tReduced := 0
  tImmCycle := 0
  immTxCount := 0
  nidPos := 0
  cbvPos := 0
  nodeId := 0
  txLen := 0
  rxLen := 0
  rxDepth := 0

/-- The value the model gives the global configuration registers at reset. DESIGN CHOICE, unsafe, as `ChanCfg.zero`
(notes/assumptions/1.md). -/
def GlobCfg.zero : GlobCfg where
  passive := false
  rsiSupport := false
  stateChangeInd := false
  userDataEn := false
  udExternal := false
  pnGlobal := false
  immRestart := false
  coordSync := false
  tickPeriod := 0

/-- A stopped timer with countdown 0 (R40). -/
def Timer.zero : Timer := ⟨false, 0⟩

/-- All five timers stopped with countdown 0 (R40). -/
def TimerArray.zero : TimerArray := ⟨.zero, .zero, .zero, .zero, .zero⟩

/-- A channel after hardware reset (R40, R240): TX and RX hold no value. -/
def Channel.reset : Channel where
  cfg := .zero
  mode := .busSleep
  state := .uninit
  requested := false
  txEnabled := false
  rxLast := Config.rxNone
  immTxCnt := 0
  blrActive := false
  rsiIndicated := false
  rsiEnabled := false
  pnConfirmed := false
  tm := .zero
  tx := []
  rx := []

/-- Operands that carry nothing; the model's own value of `State.operands` at reset. -/
def Operands.empty : Operands := ⟨0, [], ⟨.zero, []⟩, []⟩

/-- The block of `n` channels right after hardware reset (R240), with the parameters `p` and the inputs `port` to come. -/
def State.resetWith (p : Params) (n : Nat) (port : List Input) : State where
  params := p
  glob := .zero
  chans := List.replicate n .reset
  operands := .empty
  rsp := none
  port := port

/-- The block of `n` channels right after hardware reset, with the parameter values of R7 and no input yet. -/
def State.resetOf (n : Nat) : State := State.resetWith Config.params n []

/-- The machine right after reset. -/
def State.reset : State := State.resetOf Config.nCh

end Sys2Proof.Machine
end

