-- ==== Sys2Proof/Machine/Flags.lean ====
section
/-! DEFINITION. The numeric codes of the enumerations and of the response ports (spec/30_encoding.md R71, R76 to R81), and
the single-bit operations on the control-bit-vector byte (spec/42_cbv.md R140, R141; spec/40_timer.md R106(f)). -/

namespace Sys2Proof.Machine

open Sys2Proof

/-- R76. -/
def Mode.code : Mode → BitVec 2
  | .busSleep => 0
  | .prepareBusSleep => 1
  | .network => 2

/-- R77. -/
def NmState.code : NmState → BitVec 3
  | .uninit => 0
  | .busSleep => 1
  | .prepareBusSleep => 2
  | .repeatMessage => 3
  | .normalOperation => 4
  | .readySleep => 5

/-- R78. -/
def timerCode : TimerSel → BitVec 3
  | .timeout => 0
  | .msgCycle => 1
  | .repeatMsg => 2
  | .waitBusSleep => 3
  | .remoteSleep => 4

/-- R80: `rsp_code`. -/
def ResultCode.code : ResultCode → BitVec 2
  | .ok => 0
  | .ePrecond => 1
  | .eBus => 2
  | .eIllegal => 3

/-- `evt_code` of R81. -/
def Event.code : Event → BitVec 4
  | .networkStart _ => 1
  | .networkMode _ => 2
  | .prepareBusSleep _ => 3
  | .busSleep _ => 4
  | .stateChange _ _ _ => 5
  | .rsiInd _ => 6
  | .rsiCancel _ => 7
  | .txTimeout _ => 8
  | .txReq _ _ => 9
  | .udRx _ _ => 10
  | .udTxConf _ _ => 11

/-- `evt_ch` of R81. -/
def Event.ch : Event → ChIdx
  | .networkStart ch => ch
  | .networkMode ch => ch
  | .prepareBusSleep ch => ch
  | .busSleep ch => ch
  | .stateChange ch _ _ => ch
  | .rsiInd ch => ch
  | .rsiCancel ch => ch
  | .txTimeout ch => ch
  | .txReq ch _ => ch
  | .udRx ch _ => ch
  | .udTxConf ch _ => ch

/-- `evt_a` of R81: the old state, or the result of a confirmation. -/
def Event.argA : Event → BitVec 3
  | .stateChange _ old _ => old.code
  | .udTxConf _ failed => if failed then 1 else 0
  | .networkStart _ => 0
  | .networkMode _ => 0
  | .prepareBusSleep _ => 0
  | .busSleep _ => 0
  | .rsiInd _ => 0
  | .rsiCancel _ => 0
  | .txTimeout _ => 0
  | .txReq _ _ => 0
  | .udRx _ _ => 0

/-- `evt_b` of R81: the new state. -/
def Event.argB : Event → BitVec 3
  | .stateChange _ _ new => new.code
  | .udTxConf _ _ => 0
  | .networkStart _ => 0
  | .networkMode _ => 0
  | .prepareBusSleep _ => 0
  | .busSleep _ => 0
  | .rsiInd _ => 0
  | .rsiCancel _ => 0
  | .txTimeout _ => 0
  | .txReq _ _ => 0
  | .udRx _ _ => 0

/-- A byte stream as a port carries it: each byte with its `last` mark, byte 0 first (R71: `dout`, `btx`). -/
def byteStream : List Byte → List (Byte × Bool)
  | [] => []
  | [b] => [(b, true)]
  | b :: b' :: bs => (b, false) :: byteStream (b' :: bs)

/-- What goes out on the `btx` port during a command: the frame of each transmit request with its channel, in order (R71,
R81). -/
def btxFrames (events : List Event) : List (ChIdx × List (Byte × Bool)) :=
  events.filterMap fun e =>
    match e with
    | .txReq ch frame => some (ch, byteStream frame)
    | _ => none

/-- `{0b000, state[2:0], mode[1:0]}`, the value GETST returns (R71, R161). -/
def stateModeByte (st : NmState) (m : Mode) : Byte := (0 : BitVec 3) ++ st.code ++ m.code

/-- `zext_8` of one bit (R159). -/
def bitByte (b : Bool) : Byte := if b then 1 else 0

/-- `v OR (1 << b)` (R140). -/
def setBit (v : Byte) (b : Fin 8) : Byte := v ||| ((1 : Byte) <<< b.val)

/-- `v AND NOT (1 << b)`, the `NOT` on 8 bits (R141). -/
def clearBit (v : Byte) (b : Fin 8) : Byte := v &&& ~~~((1 : Byte) <<< b.val)

/-- `(v >> b) AND 1` as a Boolean (R143). -/
def testBit (v : Byte) (b : Fin 8) : Bool := v.getLsbD b.val

end Sys2Proof.Machine
end

