-- ==== Sys2Proof/Machine/Operands.lean ====
section
/-! DEFINITION. What the rules compute from the configuration and from a command's operands: the user-data functions
(spec/42_cbv.md R146, R147), the legality of a configuration (spec/10_state.md R36), the lengths the streams must have
(spec/30_encoding.md R82), the received control bit (R143), and the pseudo-commands of the trace syntax (R83). -/

namespace Sys2Proof.Machine

open Sys2Proof

/-- The position is not the sentinel. -/
def present (p : Params) (pos : Byte) : Bool := decide (pos ≠ p.absent)

/-- `UdOff(c)` (R146). -/
def udOff (p : Params) (c : ChanCfg) : Nat :=
  (if present p c.nidPos then 1 else 0) + (if present p c.cbvPos then 1 else 0)

/-- `UdLen(c)` (R147). -/
def udLen (p : Params) (c : ChanCfg) : Nat := c.txLen.toNat - udOff p c

/-- R36(c) for one position: absent, or below `UdOff(c)`. -/
def legalPos (p : Params) (c : ChanCfg) (pos : Byte) : Bool :=
  !present p pos || decide (pos.toNat < udOff p c)

/-- R36(a) to (e): a legal channel record. -/
def legalChan (p : Params) (c : ChanCfg) : Bool :=
  decide (1 ≤ c.txLen.toNat) && decide (c.txLen.toNat ≤ p.maxLen)
    && decide (1 ≤ c.rxLen.toNat) && decide (c.rxLen.toNat ≤ p.maxLen)
    && decide (1 ≤ c.rxDepth.toNat) && decide (c.rxDepth.toNat ≤ 255)
    && legalPos p c c.nidPos && legalPos p c c.cbvPos
    && (!present p c.nidPos || !present p c.cbvPos || decide (c.nidPos ≠ c.cbvPos))
    && decide (udOff p c ≤ c.txLen.toNat) && decide (udOff p c ≤ c.rxLen.toNat)
    && decide (c.nidEn = present p c.nidPos)

/-- R36: a legal configuration record, (f) included. -/
def legalCfg (p : Params) (r : CfgRecord) : Bool :=
  !r.glob.immRestart && r.chans.all (legalChan p)

/-- `CbvRxBit(i, f, b)` (R143): total, 0 when the field is absent or lies past the frame. -/
def cbvRxBit (p : Params) (c : ChanCfg) (f : List Byte) (b : Fin 8) : Bool :=
  if c.cbvPos = p.absent ∨ c.rxLen.toNat ≤ c.cbvPos.toNat then false
  else testBit (f.getD c.cbvPos.toNat 0) b

/-- The smallest legal channel record: frames of one byte, one ring slot, no optional field, every flag and duration 0. -/
def minimalChanCfg (p : Params) : ChanCfg :=
  { ChanCfg.zero with nidPos := p.absent, cbvPos := p.absent, txLen := 1, rxLen := 1, rxDepth := 1 }

/-- Operands for a command word that is presented alone: the smallest legal configuration of `n` channels on the `cfg`
port, the largest capacity, no stream and no answers. DESIGN CHOICE (notes/assumptions/17.md). -/
def defaultOperands (p : Params) (n : Nat) : Operands :=
  ⟨0xFF, [], ⟨GlobCfg.zero, List.replicate n (minimalChanCfg p)⟩, []⟩

/-- `TICK*n` (R83), the answers supplied to each TICK given one list a TICK; the operands other than the answers are
ignored by TICK. -/
def traceTicks (answers : List (List Bool)) : List Input :=
  answers.map fun back => .command ⟨encode .tick, { Operands.empty with back := back }⟩

/-- How many TICKs `WAIT d` is: `ceil(d / g.tick_period)` (R83); it needs a tick period above 0. -/
def waitTicks (d tickPeriod : Nat) : Nat := (d + tickPeriod - 1) / tickPeriod

/-- `TXOK ch` (R83): a successful TXCONF. -/
def traceTxOk (ch : ChIdx) : Input := .command ⟨encode (.txconf false ch), Operands.empty⟩

end Sys2Proof.Machine
end

