-- ==== Sys2Proof/Machine/Ops.lean ====
section
/-! DEFINITION. The operations every command is written with: outcomes in sequence, bytes of the buffers, a command in
progress (`Work`), its ending with a result code, and the expiry entry (spec/00_scope.md R9, spec/20_memory.md,
spec/60_exceptions.md R210 to R213, R228). -/

namespace Sys2Proof.Machine

open Sys2Proof

/-- An outcome of this machine carrying a value of type `α` where it goes on. -/
abbrev Out (α : Type) := Host.Outcome α Fault Refusal

/-- Do `f` after `o`, unless `o` stopped. -/
def andThen {α β : Type} (o : Out α) (f : α → Out β) : Out β :=
  match o with
  | .next a => f a
  | .fault r => .fault r
  | .refused r => .refused r

/-! ### Bytes of a buffer (20_memory.md) -/

/-- The byte at an address, if it has a value. -/
def readCell : Memory → Nat → Option Byte
  | [], _ => none
  | (b, v) :: m, a => if a = b then some v else readCell m a

/-- Give the byte at an address a value; the cells stay in rising order. -/
def writeCell : Memory → Nat → Byte → Memory
  | [], a, v => [(a, v)]
  | (b, w) :: m, a, v =>
    if a < b then (a, v) :: (b, w) :: m
    else if a = b then (a, v) :: m
    else (b, w) :: writeCell m a v

/-- Write bytes at consecutive addresses from `a` on (R57). -/
def writeCells : Memory → Nat → List Byte → Memory
  | m, _, [] => m
  | m, a, v :: vs => writeCells (writeCell m a v) (a + 1) vs

/-- The bytes at `n` consecutive addresses from `a` on, if each has a value (R57). -/
def readCells (m : Memory) : Nat → Nat → Option (List Byte)
  | _, 0 => some []
  | a, n + 1 =>
    match readCell m a, readCells m (a + 1) n with
    | some b, some bs => some (b :: bs)
    | _, _ => none

/-- The address of `TX[i][k]` in the channel's transmit buffer: the byte number (R56; notes/assumptions/3.md). -/
def txAddr (k : Nat) : Nat := k

/-- The address of `RX[i][s][k]` in the channel's receive ring (notes/assumptions/3.md). -/
def rxAddr (slot k : Nat) : Nat := slot * 256 + k

/-- Read `TX[i][k]`. -/
def readTx (c : Channel) (k : Nat) : Out Byte :=
  if k < c.cfg.txLen.toNat then
    match readCell c.tx (txAddr k) with
    | some v => .next v
    | none => .fault .noValue
  else .fault .outsideBuffer

/-- `TX[i][k] <- v`. -/
def writeTx (c : Channel) (k : Nat) (v : Byte) : Out Channel :=
  if k < c.cfg.txLen.toNat then .next { c with tx := writeCell c.tx (txAddr k) v }
  else .fault .outsideBuffer

/-- `TX[i][0 .. c.tx_len-1]`, the whole transmit buffer (R58). -/
def readTxFrame (c : Channel) : Out (List Byte) :=
  match readCells c.tx (txAddr 0) c.cfg.txLen.toNat with
  | some f => .next f
  | none => .fault .noValue

/-- Write bytes of TX from position `k` on (R58). -/
def writeTxFrom (c : Channel) (k : Nat) (d : List Byte) : Out Channel :=
  if k + d.length ≤ c.cfg.txLen.toNat then .next { c with tx := writeCells c.tx (txAddr k) d }
  else .fault .outsideBuffer

/-- `RX[i][rx_last][k .. k+n-1]`, bytes of the most recently received frame (R51, R58). -/
def readRx (c : Channel) (k n : Nat) : Out (List Byte) :=
  if c.rxLast.toNat < c.cfg.rxDepth.toNat ∧ k + n ≤ c.cfg.rxLen.toNat then
    match readCells c.rx (rxAddr c.rxLast.toNat k) n with
    | some f => .next f
    | none => .fault .noValue
  else .fault .outsideBuffer

/-- The ring index after the next reception: from `NONE` to 0, otherwise one on, modulo the depth (R55, R106(d)). -/
def nextSlot (c : Channel) : Nat :=
  if c.rxLast = Config.rxNone then 0 else (c.rxLast.toNat + 1) % c.cfg.rxDepth.toNat

/-- Advance the ring and store a whole frame in the new slot (R55, R58). -/
def storeRx (c : Channel) (f : List Byte) : Out Channel :=
  if nextSlot c < c.cfg.rxDepth.toNat ∧ f.length ≤ c.cfg.rxLen.toNat then
    .next { c with rxLast := BitVec.ofNat 8 (nextSlot c), rx := writeCells c.rx (rxAddr (nextSlot c) 0) f }
  else .fault .outsideBuffer

/-! ### A command in progress -/

/-- What a rule of one channel reads besides the channel's own record (R9: `g`, `i`). -/
structure Env where
  params : Params
  glob : GlobCfg
  idx : ChIdx
deriving DecidableEq, Repr

/-- A channel in the middle of a command: its record, the events emitted so far and the bus answers not yet consumed. -/
structure Work where
  chan : Channel
  events : List Event
  back : List Bool
deriving DecidableEq, Repr

/-- `emit EVENT(args)` (R9, R225). -/
def emit (e : Event) (w : Work) : Work := { w with events := w.events ++ [e] }

/-- Put a channel back into a command in progress. -/
def withChan (w : Work) (c : Channel) : Work := { w with chan := c }

/-- How a command on one channel ends: `return code, value` with the bytes for `dout` (R9, R71). -/
structure Answer where
  work : Work
  code : ResultCode
  val : Byte
  dout : List Byte
deriving DecidableEq, Repr

/-- `return OK`. -/
def done (w : Work) : Out Answer := .next ⟨w, .ok, 0, []⟩

/-- `return OK, value` on `rsp_val`. -/
def doneVal (w : Work) (v : Byte) : Out Answer := .next ⟨w, .ok, v, []⟩

/-- `return OK, bytes` on `dout`. -/
def doneBytes (w : Work) (d : List Byte) : Out Answer := .next ⟨w, .ok, 0, d⟩

/-- `return code` for a code other than OK: the block's form of raising an exception. The command ends and nothing is sent
on `dout` (R9, R71, R211). -/
def endWith (code : ResultCode) (w : Work) : Out Answer := .next ⟨w, code, 0, []⟩

/-- The whole command answered with a code and no other effect (R211): the form taken by `E_ILLEGAL` (R74, R75), by
`E_PRECOND` in Uninit (R210) and by the commands that carry no channel. -/
def answer (s : State) (code : ResultCode) : State := { s with rsp := some ⟨code, 0, [], []⟩ }

/-- The end of a command on channel `ch`: the channel's record is put back and the response given. -/
def commit (s : State) (ch : ChIdx) (a : Answer) : State :=
  { s with
    chans := s.chans.set ch.toNat a.work.chan
    rsp := some ⟨a.code, a.val, a.dout, a.work.events⟩ }

/-- The environment of channel `ch`. -/
def envOf (s : State) (ch : ChIdx) : Env := ⟨s.params, s.glob, ch⟩

/-- The start of a command on a channel. -/
def startWork (s : State) (c : Channel) : Work := ⟨c, [], s.operands.back⟩

/-- Run a rule on channel `ch` in any state of the channel; a channel that does not exist is `E_ILLEGAL`, before every
other check (R75). -/
def onAnyChannel (ch : ChIdx) (s : State) (rule : Env → Work → Out Answer) : Out State :=
  match s.chans[ch.toNat]? with
  | none => .next (answer s .eIllegal)
  | some c => andThen (rule (envOf s ch) (startWork s c)) fun a => .next (commit s ch a)

/-- As `onAnyChannel`, with `E_PRECOND` while the channel is in Uninit: the second check every command but INIT, DEINIT,
TICK and GETST makes (43_commands_control.md, opening; R210). -/
def onChannel (ch : ChIdx) (s : State) (rule : Env → Work → Out Answer) : Out State :=
  onAnyChannel ch s fun e w => if w.chan.state = .uninit then endWith .ePrecond w else rule e w

/-- A stream operand must have exactly the length the configuration gives (R82, 93 U8; notes/assumptions/11.md). -/
def requireStream (din : List Byte) (n : Nat) (k : Out Answer) : Out Answer :=
  if din.length = n then k else .refused .streamLength

/-! ### Timers of a channel -/

/-- Read `tm[i][T]`. -/
def getTimer (c : Channel) : TimerSel → Timer
  | .timeout => c.tm.timeout
  | .msgCycle => c.tm.msgCycle
  | .repeatMsg => c.tm.repeatMsg
  | .waitBusSleep => c.tm.waitBusSleep
  | .remoteSleep => c.tm.remoteSleep

/-- Write `tm[i][T]`. -/
def setTimer (c : Channel) (T : TimerSel) (t : Timer) : Channel :=
  { c with
    tm := match T with
      | .timeout => { c.tm with timeout := t }
      | .msgCycle => { c.tm with msgCycle := t }
      | .repeatMsg => { c.tm with repeatMsg := t }
      | .waitBusSleep => { c.tm with waitBusSleep := t }
      | .remoteSleep => { c.tm with remoteSleep := t } }

/-- Taking an expiry: the timer is stopped, its countdown kept, and nothing else is saved, masked or fetched (R228,
40_timer.md R104(c)); the handler follows. The return from it restores nothing. -/
def expiryEntry (c : Channel) (T : TimerSel) : Channel := setTimer c T { getTimer c T with run := false }

/-! ### Inputs -/

/-- Take a command from the port: its operands stand on the side ports, the rest of the inputs stays to come (R70). -/
def accept (s : State) (c : Command) (rest : List Input) : State := { s with operands := c.operands, port := rest }

/-- Hardware reset (R240): every channel as after reset, no response, TX, RX and the configuration without a value;
`N_CH` and the parameters are fixed, and what has not been presented yet is untouched (notes/assumptions/8.md). -/
def hardReset (s : State) (rest : List Input) : State := State.resetWith s.params s.nCh rest

/-- Put a command word where the next step takes it: into the command that is next on the port, with its operands, or in
front of everything as a command with the default operands (notes/assumptions/17.md). -/
def presentWord (s : State) (w : CmdWord) : State :=
  match s.port with
  | .command c :: rest => { s with port := .command { c with word := w } :: rest }
  | other => { s with port := .command ⟨w, defaultOperands s.params s.nCh⟩ :: other }

end Sys2Proof.Machine
end

