-- ==== Sys2Proof/Machine/Cbv.lean ====
section
/-! DEFINITION. The control-bit-vector framer (spec/42_cbv.md R140 to R142). -/

namespace Sys2Proof.Machine

open Sys2Proof

/-- Read byte `c.cbv_pos` of TX, change it, write it back; nothing where the position is absent (R58, R140, R141). -/
def cbvModify (p : Params) (f : Byte → Byte) (c : Channel) : Out Channel :=
  if present p c.cfg.cbvPos then
    andThen (readTx c c.cfg.cbvPos.toNat) fun v => writeTx c c.cfg.cbvPos.toNat (f v)
  else .next c

/-- `CbvSet(i, b)` (R140). -/
def cbvSet (p : Params) (b : Fin 8) (c : Channel) : Out Channel := cbvModify p (fun v => setBit v b) c

/-- `CbvClr(i, b)` (R141). -/
def cbvClr (p : Params) (b : Fin 8) (c : Channel) : Out Channel := cbvModify p (fun v => clearBit v b) c

/-- `CbvClrAll(i)` (R142). -/
def cbvClrAll (p : Params) (c : Channel) : Out Channel :=
  if present p c.cfg.cbvPos then writeTx c c.cfg.cbvPos.toNat 0 else .next c

end Sys2Proof.Machine
end

