-- ==== Sys2Proof/Machine/Timer.lean ====
section
/-! DEFINITION. The countdown timer's micro-operations (spec/40_timer.md R100 to R104). -/

namespace Sys2Proof.Machine

open Sys2Proof

/-- `TStart(i, T, d)` (R100). -/
def tStart (c : Channel) (T : TimerSel) (d : Dur) : Channel := setTimer c T ⟨true, d⟩

/-- `TResume(i, T)` (R101). -/
def tResume (c : Channel) (T : TimerSel) : Channel := setTimer c T { getTimer c T with run := true }

/-- `TStop(i, T)` (R102). -/
def tStop (c : Channel) (T : TimerSel) : Channel := setTimer c T { getTimer c T with run := false }

/-- `TReset(i, T, d)` (R103). -/
def tReset (c : Channel) (T : TimerSel) (d : Dur) : Channel := setTimer c T ⟨false, d⟩

/-- `TTick(i, T, e)` (R104), with the handler `expire` that runs at expiry. -/
def tTick (expire : TimerSel → Work → Out Work) (T : TimerSel) (e : Dur) (w : Work) : Out Work :=
  let t := getTimer w.chan T
  if t.run then
    if t.cnt ≤ e then expire T (withChan w (expiryEntry w.chan T))
    else .next (withChan w (setTimer w.chan T { t with cnt := t.cnt - e }))
  else .next w

end Sys2Proof.Machine
end

