-- ==== Sys2Proof/Machine/Transitions.lean ====
section
/-! DEFINITION. The transition procedures of the channel state machine (spec/41_transitions.md R121 to R137). A procedure
never checks its own precondition; its caller has established it. -/

namespace Sys2Proof.Machine

open Sys2Proof

/-- `Sc(i, old, new)` (R121). -/
def sc (e : Env) (old new : NmState) (w : Work) : Work :=
  if e.glob.stateChangeInd then emit (.stateChange e.idx old new) w else w

/-- `CancelRsi(i)` (R137). -/
def cancelRsi (e : Env) (w : Work) : Work :=
  if w.chan.rsiIndicated then emit (.rsiCancel e.idx) (withChan w { w.chan with rsiIndicated := false }) else w

/-- "Enable transmit (unless passive)" of the rows from Ready-Sleep (R130, R131). -/
def enableTx (g : GlobCfg) (c : Channel) : Channel := if g.passive then c else { c with txEnabled := true }

/-- "re-arm repeat-message & message-cycle timers" with the values of D24 (R127, R131, R136). -/
def rearmRepeat (c : Channel) : Channel :=
  tStart (tStart c .repeatMsg c.cfg.tRepeat) .msgCycle c.cfg.tMsgOffset

/-- The load of the immediate-transmission counter on a requested re-entry (R127, R131, R136; D19). -/
def loadBurst (byRequest : Bool) (c : Channel) : Channel :=
  if byRequest && c.cfg.immTxEn then { c with immTxCnt := c.cfg.immTxCount } else c

/-- Re-arm the timeout timer, the whole effect of `Tr_RM_RM`, `Tr_NO_NO` and `Tr_RS_RS` (R124, R128, R132). -/
def rearmTimeout (w : Work) : Work := withChan w (tStart w.chan .timeout w.chan.cfg.tTimeout)

/-- `Tr_BS_BS(i)` (R122). -/
def trBsBs (e : Env) (w : Work) : Work := sc e .busSleep .busSleep (emit (.networkStart e.idx) w)

/-- The channel part of the entry to Repeat-Message from sleep (R123). -/
def wakeChannel (g : GlobCfg) (byRequest : Bool) (c : Channel) : Channel :=
  let c1 := { c with mode := .network, state := .repeatMessage, blrActive := false }
  let c2 := tStart c1 .timeout c.cfg.tTimeout
  let c3 := tStart c2 .repeatMsg c.cfg.tRepeat
  let c4 := tStart c3 .msgCycle c.cfg.tMsgOffset
  { c4 with
    txEnabled := !g.passive
    immTxCnt := if byRequest && c.cfg.immTxEn then c.cfg.immTxCount else 0 }

/-- The pseudocode `Tr_BS_RM` and `Tr_PBS_RM` share (R123, R134). -/
def wake (e : Env) (byRequest : Bool) (w : Work) : Work :=
  sc e w.chan.state .repeatMessage
    (emit (.networkMode e.idx) (withChan w (wakeChannel e.glob byRequest w.chan)))

/-- `Tr_BS_RM(i, by_request)` (R123). -/
def trBsRm (e : Env) (byRequest : Bool) (w : Work) : Work := wake e byRequest w

/-- `Tr_RM_RM(i)` (R124). -/
def trRmRm (w : Work) : Work := rearmTimeout w

/-- `Tr_RM_RS(i)` (R125). -/
def trRmRs (e : Env) (w : Work) : Out Work :=
  let c := { w.chan with state := .readySleep, txEnabled := false }
  andThen (if c.cfg.ndEn then cbvClrAll e.params c else .next c) fun c' =>
    .next (sc e .repeatMessage .readySleep (withChan w c'))

/-- `Tr_RM_NO(i)` (R126). -/
def trRmNo (e : Env) (w : Work) : Out Work :=
  let c := { w.chan with state := .normalOperation, blrActive := w.chan.cfg.blrEn }
  andThen (cbvClrAll e.params c) fun c' =>
    .next (sc e .repeatMessage .normalOperation
      (withChan w (if c'.rsiEnabled then tStart c' .remoteSleep c'.cfg.tRsi else c')))

/-- `Tr_NO_RM(i, by_request)` (R127). -/
def trNoRm (e : Env) (byRequest : Bool) (w : Work) : Work :=
  let c := { w.chan with state := .repeatMessage, blrActive := false }
  sc e .normalOperation .repeatMessage (cancelRsi e (withChan w (loadBurst byRequest (rearmRepeat c))))

/-- `Tr_NO_NO(i)` (R128). -/
def trNoNo (w : Work) : Work := rearmTimeout w

/-- `Tr_NO_RS(i)` (R129). -/
def trNoRs (e : Env) (w : Work) : Work :=
  sc e .normalOperation .readySleep (withChan w { w.chan with state := .readySleep, txEnabled := false })

/-- `Tr_RS_NO(i)` (R130). -/
def trRsNo (e : Env) (w : Work) : Work :=
  let c := enableTx e.glob { w.chan with state := .normalOperation }
  sc e .readySleep .normalOperation
    (withChan w (tStart { c with blrActive := c.cfg.blrEn } .msgCycle c.cfg.tMsgOffset))

/-- `Tr_RS_RM(i, by_request)` (R131). -/
def trRsRm (e : Env) (byRequest : Bool) (w : Work) : Work :=
  let c := enableTx e.glob { w.chan with state := .repeatMessage }
  sc e .readySleep .repeatMessage (cancelRsi e (withChan w (loadBurst byRequest (rearmRepeat c))))

/-- `Tr_RS_RS(i)` (R132). -/
def trRsRs (w : Work) : Work := rearmTimeout w

/-- `Tr_RS_PBS(i)` (R133). -/
def trRsPbs (e : Env) (w : Work) : Out Work :=
  let c := { w.chan with mode := .prepareBusSleep, state := .prepareBusSleep }
  andThen (if c.cfg.awEn then cbvClr e.params e.params.cbvAw c else .next c) fun c' =>
    .next (sc e .readySleep .prepareBusSleep
      (emit (.prepareBusSleep e.idx) (withChan w (tStart c' .waitBusSleep c'.cfg.tWbs))))

/-- `Tr_PBS_RM(i, by_request)` (R134): the pseudocode of `Tr_BS_RM`. -/
def trPbsRm (e : Env) (byRequest : Bool) (w : Work) : Work := wake e byRequest w

/-- `Tr_PBS_BS(i)` (R135). -/
def trPbsBs (e : Env) (w : Work) : Work :=
  sc e .prepareBusSleep .busSleep
    (emit (.busSleep e.idx) (withChan w { w.chan with mode := .busSleep, state := .busSleep }))

/-- `Tr_RM_REENTER(i)` (R136). -/
def trRmReenter (w : Work) : Work := withChan w (loadBurst true (rearmRepeat w.chan))

end Sys2Proof.Machine
end

