-- ==== Sys2Proof/Machine/Handlers.lean ====
section
/-! DEFINITION. The transmit request and the five expiry handlers (spec/60_exceptions.md R220 to R226). When a handler
starts, its timer's `run` is already 0 (`expiryEntry`). -/

namespace Sys2Proof.Machine

open Sys2Proof

/-- `BusTx(i)` (R226): the frame is the transmit buffer as it stands; the answer is the next one supplied with the
command, and without one the model gives the request no meaning (93 U8). -/
def busTx (e : Env) (w : Work) : Out (Work × Bool) :=
  andThen (readTxFrame w.chan) fun f =>
    match w.back with
    | [] => .refused .noBusAnswer
    | ok :: rest => .next ({ emit (.txReq e.idx f) w with back := rest }, ok)

/-- "if ch[i].tx_enabled = 1 then emit TX_TIMEOUT(i)" (R220). -/
def txTimeoutNote (e : Env) (w : Work) : Work := if w.chan.txEnabled then emit (.txTimeout e.idx) w else w

/-- Timeout handler (R220). -/
def expireTimeout (e : Env) (w : Work) : Out Work :=
  match w.chan.state with
  | .repeatMessage => .next (txTimeoutNote e (rearmTimeout w))
  | .normalOperation => .next (txTimeoutNote e (trNoNo w))
  | .readySleep => trRsPbs e w
  | .uninit => .next w
  | .busSleep => .next w
  | .prepareBusSleep => .next w

/-- What the message-cycle handler does with the answer to its transmit request (R221). -/
def afterCycleTx (ok : Bool) (c : Channel) : Channel :=
  if c.immTxCnt ≠ 0 then
    if ok then
      let c' := { c with immTxCnt := c.immTxCnt - 1 }
      tStart c' .msgCycle (if c'.immTxCnt ≠ 0 then c.cfg.tImmCycle else c.cfg.tMsgCycle)
    else tStart c .msgCycle 0
  else tStart c .msgCycle c.cfg.tMsgCycle

/-- Message-cycle handler (R221). -/
def expireMsgCycle (e : Env) (w : Work) : Out Work :=
  if (w.chan.state = .repeatMessage ∨ w.chan.state = .normalOperation) ∧ w.chan.txEnabled = true then
    andThen (busTx e w) fun r => .next (withChan r.1 (afterCycleTx r.2 r.1.chan))
  else .next w

/-- Repeat-message handler (R222). -/
def expireRepeatMsg (e : Env) (w : Work) : Out Work :=
  if w.chan.state = .repeatMessage then
    if w.chan.requested then trRmNo e w else trRmRs e w
  else .next w

/-- Wait-bus-sleep handler (R223). -/
def expireWaitBusSleep (e : Env) (w : Work) : Out Work :=
  if w.chan.state = .prepareBusSleep then .next (trPbsBs e w) else .next w

/-- Remote-sleep handler (R224). -/
def expireRemoteSleep (e : Env) (w : Work) : Out Work :=
  if w.chan.state = .normalOperation ∧ w.chan.rsiEnabled = true ∧ w.chan.rsiIndicated = false then
    .next (emit (.rsiInd e.idx) (withChan w { w.chan with rsiIndicated := true }))
  else .next w

/-- `Expire(i, T)`: the handler of each timer (R20, R104). -/
def expire (e : Env) (T : TimerSel) (w : Work) : Out Work :=
  match T with
  | .timeout => expireTimeout e w
  | .msgCycle => expireMsgCycle e w
  | .repeatMsg => expireRepeatMsg e w
  | .waitBusSleep => expireWaitBusSleep e w
  | .remoteSleep => expireRemoteSleep e w

end Sys2Proof.Machine
end

