-- ==== Sys2Proof/Machine/Control.lean ====
section
/-! DEFINITION. The control commands (spec/43_commands_control.md R150 to R162). The two checks every command begins with
are in `onChannel` (R74, R75, R210). -/

namespace Sys2Proof.Machine

open Sys2Proof

/-! ### Lifecycle -/

/-- TX after INIT: `tx_len` bytes 0xFF, then 0x00 at the control-bit-vector position and the node identifier at its own,
where present (R150). The positions are in range because the record is legal (R36). -/
def initTx (p : Params) (c : ChanCfg) (old : Memory) : Memory :=
  let filled := writeCells old (txAddr 0) (List.replicate c.txLen.toNat 0xFF)
  let withCbv := if present p c.cbvPos then writeCell filled (txAddr c.cbvPos.toNat) 0 else filled
  if present p c.nidPos then writeCell withCbv (txAddr c.nidPos.toNat) c.nodeId else withCbv

/-- One channel after INIT (R150): RX is not written. -/
def initChannel (p : Params) (g : GlobCfg) (c : ChanCfg) (old : Channel) : Channel :=
  let c0 : Channel :=
    { old with
      cfg := c
      mode := .busSleep
      state := .busSleep
      requested := false
      txEnabled := false
      rxLast := Config.rxNone
      immTxCnt := 0
      blrActive := false
      rsiIndicated := false
      rsiEnabled := g.rsiSupport
      pnConfirmed := false
      tx := initTx p c old.tx }
  tReset (tReset (tReset (tReset (tReset c0 .timeout 0) .msgCycle 0) .repeatMsg 0) .waitBusSleep 0) .remoteSleep 0

/-- INIT (R150). A record with another number of channels than the block has, or one that breaks R36, has no meaning
(R82, 93 U1). -/
def execInit (s : State) : Out State :=
  let r := s.operands.cfg
  if r.chans.length ≠ s.nCh then .refused .configurationShape
  else if legalCfg s.params r then
    .next { answer s .ok with
      glob := r.glob
      chans := List.zipWith (initChannel s.params r.glob) r.chans s.chans }
  else .refused .illegalConfiguration

/-- DEINIT (R151): all or nothing. -/
def execDeinit (s : State) : Out State :=
  if s.chans.all (fun c => decide (c.state = .busSleep)) then
    .next { answer s .ok with chans := s.chans.map fun c => { c with state := .uninit } }
  else .next (answer s .ePrecond)

/-! ### Network request and release -/

/-- The multi-request policy (R152(b)). -/
def multiRequest (c : ChanCfg) : Bool := c.multiReqEn && c.immTxEn

/-- A network request in Network mode (R152). -/
def netreqAwake (e : Env) (w : Work) : Work :=
  if multiRequest w.chan.cfg then
    match w.chan.state with
    | .readySleep => trRsRm e true w
    | .normalOperation => trNoRm e true w
    | .repeatMessage => trRmReenter w
    | .uninit => trRmReenter w
    | .busSleep => trRmReenter w
    | .prepareBusSleep => trRmReenter w
  else if w.chan.state = .readySleep then trRsNo e w
  else w

/-- A network request in a sleeping mode (R152): the active-wakeup bit first, then the transition. -/
def netreqAsleep (e : Env) (w : Work) : Out Work :=
  andThen (if w.chan.cfg.awEn then cbvSet e.params e.params.cbvAw w.chan else .next w.chan) fun c =>
    .next (if w.chan.state = .busSleep then trBsRm e true (withChan w c) else trPbsRm e true (withChan w c))

/-- NETREQ past the common checks (R152). -/
def netreqRule (e : Env) (w : Work) : Out Answer :=
  let w1 := withChan w { w.chan with requested := true }
  match w1.chan.mode with
  | .busSleep => andThen (netreqAsleep e w1) done
  | .prepareBusSleep => andThen (netreqAsleep e w1) done
  | .network => done (netreqAwake e w1)

/-- NETREQ (R152). -/
def execNetreq (ch : ChIdx) (s : State) : Out State := onChannel ch s netreqRule

/-- NETREL past the common checks (R153). -/
def netrelRule (e : Env) (w : Work) : Out Answer :=
  let w1 := withChan w { w.chan with requested := false }
  done (if w1.chan.state = .normalOperation then trNoRs e w1 else w1)

/-- NETREL (R153). -/
def execNetrel (ch : ChIdx) (s : State) : Out State := onChannel ch s netrelRule

/-- PSTART past the common checks (R154). -/
def pstartRule (e : Env) (w : Work) : Out Answer :=
  if w.chan.state ≠ .busSleep then endWith .ePrecond w else done (trBsRm e false w)

/-- PSTART (R154). -/
def execPstart (ch : ChIdx) (s : State) : Out State := onChannel ch s pstartRule

/-! ### Communication control -/

/-- ENCOM past the common checks (R155). -/
def encomRule (e : Env) (w : Work) : Out Answer :=
  if w.chan.mode ≠ .network ∨ e.glob.passive = true ∨ (getTimer w.chan .msgCycle).run = true then endWith .ePrecond w
  else
    let c := tResume (tResume { w.chan with txEnabled := true } .msgCycle) .timeout
    done (withChan w { c with rsiEnabled := e.glob.rsiSupport })

/-- ENCOM (R155). -/
def execEncom (ch : ChIdx) (s : State) : Out State := onChannel ch s encomRule

/-- DISCOM past the common checks (R156). -/
def discomRule (e : Env) (w : Work) : Out Answer :=
  if w.chan.mode ≠ .network ∨ e.glob.passive = true then endWith .ePrecond w
  else
    let c := tStop (tStop { w.chan with txEnabled := false } .msgCycle) .timeout
    done (withChan w { c with rsiEnabled := false })

/-- DISCOM (R156). -/
def execDiscom (ch : ChIdx) (s : State) : Out State := onChannel ch s discomRule

/-! ### Repeat-message request and bus synchronisation -/

/-- RMREQ past the common checks (R157). -/
def rmreqRule (e : Env) (w : Work) : Out Answer :=
  if w.chan.cfg.ndEn = false ∨ (w.chan.state ≠ .readySleep ∧ w.chan.state ≠ .normalOperation) then
    endWith .ePrecond w
  else
    andThen (cbvSet e.params e.params.cbvRmr w.chan) fun c =>
      done (if w.chan.state = .readySleep then trRsRm e false (withChan w c) else trNoRm e false (withChan w c))

/-- RMREQ (R157). -/
def execRmreq (ch : ChIdx) (s : State) : Out State := onChannel ch s rmreqRule

/-- BUSSYNC past the common checks (R158). -/
def bussyncRule (e : Env) (w : Work) : Out Answer :=
  if w.chan.txEnabled = false ∨ e.glob.passive = true then endWith .ePrecond w
  else andThen (busTx e w) fun r => if r.2 then done r.1 else endWith .eBus r.1

/-- BUSSYNC (R158). -/
def execBussync (ch : ChIdx) (s : State) : Out State := onChannel ch s bussyncRule

/-! ### Remote sleep, coordinator bit, state, partial network -/

/-- CHKRSI past the common checks (R159). -/
def chkrsiRule (e : Env) (w : Work) : Out Answer :=
  if e.glob.rsiSupport = false ∨ (w.chan.state ≠ .normalOperation ∧ w.chan.state ≠ .readySleep) then
    endWith .ePrecond w
  else doneVal w (bitByte w.chan.rsiIndicated)

/-- CHKRSI (R159). -/
def execChkrsi (ch : ChIdx) (s : State) : Out State := onChannel ch s chkrsiRule

/-- SETSRB past the common checks (R160). -/
def setsrbRule (e : Env) (w : Work) : Out Answer :=
  if e.glob.coordSync = false then endWith .ePrecond w
  else andThen (cbvSet e.params e.params.cbvCsr w.chan) fun c => done (withChan w c)

/-- SETSRB (R160). -/
def execSetsrb (ch : ChIdx) (s : State) : Out State := onChannel ch s setsrbRule

/-- GETST past the encoding checks (R161). -/
def getstRule (_ : Env) (w : Work) : Out Answer := doneVal w (stateModeByte w.chan.state w.chan.mode)

/-- GETST (R161): it succeeds in Uninit too. -/
def execGetst (ch : ChIdx) (s : State) : Out State := onAnyChannel ch s getstRule

/-- PNCONF past the common checks (R162). -/
def pnconfRule (e : Env) (w : Work) : Out Answer :=
  if e.glob.pnGlobal = false ∨ w.chan.cfg.pnEn = false then endWith .ePrecond w
  else done (withChan w { w.chan with pnConfirmed := true })

/-- PNCONF (R162). -/
def execPnconf (ch : ChIdx) (s : State) : Out State := onChannel ch s pnconfRule

end Sys2Proof.Machine
end

