-- ==== Sys2Proof/Machine/Data.lean ====
section
/-! DEFINITION. The data commands and the commands of the bus interface (spec/44_commands_data.md R180 to R187). -/

namespace Sys2Proof.Machine

open Sys2Proof

/-! ### Buffer copies -/

/-- SETUD past the common checks, with the `din` stream (R180). -/
def setudRule (din : List Byte) (e : Env) (w : Work) : Out Answer :=
  requireStream din (udLen e.params w.chan.cfg)
    (if e.glob.userDataEn = false ∨ e.glob.udExternal = true then endWith .ePrecond w
     else andThen (writeTxFrom w.chan (udOff e.params w.chan.cfg) din) fun c => done (withChan w c))

/-- SETUD (R180). -/
def execSetud (ch : ChIdx) (s : State) : Out State := onChannel ch s (setudRule s.operands.din)

/-- GETUD past the common checks (R181). -/
def getudRule (e : Env) (w : Work) : Out Answer :=
  let off := udOff e.params w.chan.cfg
  if e.glob.userDataEn = false ∨ w.chan.rxLast = Config.rxNone then endWith .ePrecond w
  else andThen (readRx w.chan off (w.chan.cfg.rxLen.toNat - off)) (doneBytes w)

/-- GETUD (R181). -/
def execGetud (ch : ChIdx) (s : State) : Out State := onChannel ch s getudRule

/-- GETNID past the common checks (R182). -/
def getnidRule (e : Env) (w : Work) : Out Answer :=
  if w.chan.cfg.nidEn = false ∨ w.chan.cfg.nidPos = e.params.absent ∨ w.chan.rxLast = Config.rxNone then
    endWith .ePrecond w
  else andThen (readRx w.chan w.chan.cfg.nidPos.toNat 1) fun f => doneVal w (f.headD 0)

/-- GETNID (R182). -/
def execGetnid (ch : ChIdx) (s : State) : Out State := onChannel ch s getnidRule

/-- GETLNID past the common checks (R183). -/
def getlnidRule (_ : Env) (w : Work) : Out Answer :=
  if w.chan.cfg.nidEn = false then endWith .ePrecond w else doneVal w w.chan.cfg.nodeId

/-- GETLNID (R183). -/
def execGetlnid (ch : ChIdx) (s : State) : Out State := onChannel ch s getlnidRule

/-- GETPDU past the common checks (R184). -/
def getpduRule (_ : Env) (w : Work) : Out Answer :=
  if w.chan.rxLast = Config.rxNone then endWith .ePrecond w
  else andThen (readRx w.chan 0 w.chan.cfg.rxLen.toNat) (doneBytes w)

/-- GETPDU (R184). -/
def execGetpdu (ch : ChIdx) (s : State) : Out State := onChannel ch s getpduRule

/-- TRIGTX past the common checks, with the caller's capacity (R185). -/
def trigtxRule (cap : Byte) (_ : Env) (w : Work) : Out Answer :=
  if cap.toNat < w.chan.cfg.txLen.toNat then endWith .ePrecond w
  else andThen (readTxFrame w.chan) (doneBytes w)

/-- TRIGTX (R185). -/
def execTrigtx (ch : ChIdx) (s : State) : Out State := onChannel ch s (trigtxRule s.operands.cap)

/-! ### Commands of the bus interface -/

/-- User data is owned by an external transport: the condition of the two forwarding events (R186, R187). -/
def forwards (g : GlobCfg) : Bool := g.userDataEn && g.udExternal

/-- TXCONF past the common checks (R186). -/
def txconfRule (failed : Bool) (e : Env) (w : Work) : Out Answer :=
  let w1 := if failed = false ∧ w.chan.mode = .network then rearmTimeout w else w
  done (if forwards e.glob then emit (.udTxConf e.idx failed) w1 else w1)

/-- TXCONF (R186). -/
def execTxconf (failed : Bool) (ch : ChIdx) (s : State) : Out State := onChannel ch s (txconfRule failed)

/-- The self-transition a reception takes in Network mode (R187). -/
def rxSelf (w : Work) : Work :=
  match w.chan.state with
  | .repeatMessage => trRmRm w
  | .normalOperation => trNoNo w
  | .readySleep => trRsRs w
  | .uninit => trRsRs w
  | .busSleep => trRsRs w
  | .prepareBusSleep => trRsRs w

/-- The remote-sleep part of a reception in Network mode (R187). -/
def rxRemoteSleep (e : Env) (w : Work) : Work :=
  if w.chan.rsiEnabled then
    let w1 := cancelRsi e w
    if w1.chan.state = .normalOperation then withChan w1 (tStart w1.chan .remoteSleep w1.chan.cfg.tRsi) else w1
  else w

/-- The bus-load-reduction part of a reception in Network mode (R187). -/
def rxReduced (w : Work) : Work :=
  if w.chan.blrActive then withChan w (tStart w.chan .msgCycle w.chan.cfg.tReduced) else w

/-- The transition by the received repeat-message bit (R187). -/
def rxRepeatBit (e : Env) (rmr : Bool) (w : Work) : Work :=
  if rmr then
    match w.chan.state with
    | .normalOperation => trNoRm e false w
    | .readySleep => trRsRm e false w
    | .repeatMessage => w
    | .uninit => w
    | .busSleep => w
    | .prepareBusSleep => w
  else w

/-- RXIND's reaction in each mode (R187, part 2). -/
def rxReact (e : Env) (rmr : Bool) (w : Work) : Work :=
  match w.chan.mode with
  | .busSleep => trBsBs e w
  | .prepareBusSleep => trPbsRm e false w
  | .network => rxRepeatBit e rmr (rxReduced (rxRemoteSleep e (rxSelf w)))

/-- RXIND past the common checks, with the received frame (R187). -/
def rxindRule (f : List Byte) (e : Env) (w : Work) : Out Answer :=
  requireStream f w.chan.cfg.rxLen.toNat
    (andThen (storeRx w.chan f) fun c =>
      let w1 := withChan w c
      let w2 := if forwards e.glob then emit (.udRx e.idx f) w1 else w1
      done (rxReact e (cbvRxBit e.params c.cfg f e.params.cbvRmr) w2))

/-- RXIND (R187). -/
def execRxind (ch : ChIdx) (s : State) : Out State := onChannel ch s (rxindRule s.operands.din)

end Sys2Proof.Machine
end

