-- ==== Sys2Proof/Machine/Tick.lean ====
section
/-! DEFINITION. The periodic tick (spec/45_tick.md R200 to R202). -/

namespace Sys2Proof.Machine

open Sys2Proof

/-- `TTick` of each listed timer of one channel, in the order listed (R200). -/
def tickTimers (e : Env) : List TimerSel → Work → Out Work
  | [], w => .next w
  | T :: Ts, w => andThen (tTick (expire e) T e.glob.tickPeriod w) (tickTimers e Ts)

/-- The channels from index `k` on, ascending, with the events so far and the bus answers left; the answers and the events
run through from one channel to the next (R200, R202). -/
def tickChannels (p : Params) (g : GlobCfg) :
    Nat → List Channel → List Event → List Bool → Out (List Channel × List Event)
  | _, [], evs, _ => .next ([], evs)
  | k, c :: cs, evs, back =>
    andThen (tickTimers ⟨p, g, BitVec.ofNat 8 k⟩ p.tickOrder ⟨c, evs, back⟩) fun w =>
      andThen (tickChannels p g (k + 1) cs w.events w.back) fun r => .next (w.chan :: r.1, r.2)

/-- The block is initialised: no channel is in Uninit (R13). -/
def initialised (s : State) : Bool := s.chans.all fun c => decide (c.state ≠ .uninit)

/-- TICK (R200). -/
def execTick (s : State) : Out State :=
  if initialised s then
    andThen (tickChannels s.params s.glob 0 s.chans [] s.operands.back) fun r =>
      .next { s with chans := r.1, rsp := some ⟨.ok, 0, [], r.2⟩ }
  else .next (answer s .ePrecond)

end Sys2Proof.Machine
end

