-- ==== Sys2Proof/Machine/Dispatch.lean ====
section
/-! DEFINITION. The meaning of each command, one arm per constructor of `Instr`. -/

namespace Sys2Proof.Machine

open Sys2Proof

def exec (i : Instr) (s : State) : Host.Outcome State Fault Refusal :=
  match i with
  | .init => Sys2Proof.Machine.execInit s
  | .deinit => Sys2Proof.Machine.execDeinit s
  | .netreq ch => Sys2Proof.Machine.execNetreq ch s
  | .netrel ch => Sys2Proof.Machine.execNetrel ch s
  | .encom ch => Sys2Proof.Machine.execEncom ch s
  | .discom ch => Sys2Proof.Machine.execDiscom ch s
  | .setud ch => Sys2Proof.Machine.execSetud ch s
  | .getud ch => Sys2Proof.Machine.execGetud ch s
  | .getnid ch => Sys2Proof.Machine.execGetnid ch s
  | .getlnid ch => Sys2Proof.Machine.execGetlnid ch s
  | .rmreq ch => Sys2Proof.Machine.execRmreq ch s
  | .getpdu ch => Sys2Proof.Machine.execGetpdu ch s
  | .getst ch => Sys2Proof.Machine.execGetst ch s
  | .bussync ch => Sys2Proof.Machine.execBussync ch s
  | .chkrsi ch => Sys2Proof.Machine.execChkrsi ch s
  | .setsrb ch => Sys2Proof.Machine.execSetsrb ch s
  | .txconf failed ch => Sys2Proof.Machine.execTxconf failed ch s
  | .rxind ch => Sys2Proof.Machine.execRxind ch s
  | .pnconf ch => Sys2Proof.Machine.execPnconf ch s
  | .trigtx ch => Sys2Proof.Machine.execTrigtx ch s
  | .tick => Sys2Proof.Machine.execTick s
  | .pstart ch => Sys2Proof.Machine.execPstart ch s

end Sys2Proof.Machine
end

