-- ==== Sys2Proof/Machine/Step.lean ====
section
/-! DEFINITION. One step of the block (spec/00_scope.md R5): the next input is taken from the port; a command is decoded
and run to completion, a word that is no command is answered with `E_ILLEGAL` (spec/30_encoding.md R74, R75), and the reset
pin resets (spec/70_reset_and_hazards.md R240). -/

namespace Sys2Proof.Machine

open Sys2Proof

/-- Run a command whose operands stand on the side ports. -/
def runWord (w : CmdWord) (s : State) : Host.Outcome State Fault Refusal :=
  match decode w with
  | .ok i => exec i s
  | .error _ => .next (answer s .eIllegal)

/-- One step. With nothing on the port the block does nothing (R2; notes/assumptions/7.md). -/
def step (s : State) : Host.Outcome State Fault Refusal :=
  match s.port with
  | [] => .next s
  | .rst :: rest => .next (hardReset s rest)
  | .command c :: rest => runWord c.word (accept s c rest)

/-- `s` with the instruction whose first `nbits` bits are those of `w` (the higher bits 0) where the next step takes it. -/
def State.withFetchWord (s : State) (nbits w : Nat) : State := presentWord s (BitVec.ofNat 16 (w % 2 ^ nbits))

end Sys2Proof.Machine
end

