-- ==== Sys2Proof/Safety.lean ====
section
/-! DEFINITION. What a good state of the block is, and the words the statements are written in (spec/10_state.md R13, R15;
spec/42_cbv.md R145; spec/60_exceptions.md R212; spec/41_transitions.md R139). -/

namespace Sys2Proof.Machine

open Sys2Proof

/-! ### Invariants -/

/-- The legal pairs of mode and state: the table of R13. -/
def legalPair : Mode → NmState → Bool
  | .busSleep, .uninit => true
  | .busSleep, .busSleep => true
  | .prepareBusSleep, .prepareBusSleep => true
  | .network, .repeatMessage => true
  | .network, .normalOperation => true
  | .network, .readySleep => true
  | _, _ => false

/-- Every byte of TX inside the configured length has a value. -/
abbrev TxReadable (c : Channel) : Prop := ∀ k, k < c.cfg.txLen.toNat → (readCell c.tx (txAddr k)).isSome = true

/-- Every byte of the newest slot of the receive ring has a value. -/
abbrev SlotReadable (c : Channel) : Prop :=
  ∀ k, k < c.cfg.rxLen.toNat → (readCell c.rx (rxAddr c.rxLast.toNat k)).isSome = true

/-- A frame has been received and is there: `rx_last` is a slot of the ring, and its bytes have values (R16, R55). -/
abbrev RxReadable (c : Channel) : Prop :=
  c.rxLast ≠ Config.rxNone ∧ c.rxLast.toNat < c.cfg.rxDepth.toNat ∧ SlotReadable c

/-- The three named bits of the control-bit-vector (R79). -/
def cbvMask (p : Params) : Byte := setBit (setBit (setBit 0 p.cbvRmr) p.cbvCsr) p.cbvAw

/-- R13: every channel's pair is legal, and either every channel is in Uninit or none is. -/
abbrev PairInv (s : State) : Prop :=
  (∀ c ∈ s.chans, legalPair c.mode c.state = true)
    ∧ ((∀ c ∈ s.chans, c.state = .uninit) ∨ (∀ c ∈ s.chans, c.state ≠ .uninit))

/-- Every buffer is in its canonical form. -/
abbrev MemInv (s : State) : Prop := ∀ c ∈ s.chans, Memory.wf c.tx ∧ Memory.wf c.rx

/-- R15: `tx_enabled = 1` implies `g.passive = 0`. -/
abbrev PassiveInv (s : State) : Prop := ∀ c ∈ s.chans, c.txEnabled = true → s.glob.passive = false

/-- R222: the repeat-message timer runs in Repeat-Message only. -/
abbrev RepeatTimerInv (s : State) : Prop :=
  ∀ c ∈ s.chans, (getTimer c .repeatMsg).run = true → c.state = .repeatMessage

/-- The configuration and the buffers of an initialised channel: the record is legal (R36), TX has its values (R40), and
`rx_last` is `NONE` or a slot that has been written (R16). -/
abbrev ReadyChannel (p : Params) (c : Channel) : Prop :=
  legalChan p c.cfg = true ∧ TxReadable c ∧ (c.rxLast = Config.rxNone ∨ RxReadable c)

/-- R145 and R52: the control-bit-vector byte has only named bits set, and the node-identifier byte is the configured
identifier. -/
abbrev FrameLayout (p : Params) (c : Channel) : Prop :=
  (present p c.cfg.cbvPos = true → ((readCell c.tx (txAddr c.cfg.cbvPos.toNat)).getD 0) &&& ~~~(cbvMask p) = 0)
    ∧ (present p c.cfg.nidPos = true → readCell c.tx (txAddr c.cfg.nidPos.toNat) = some c.cfg.nodeId)

/-- Every initialised channel is ready. -/
abbrev ReadyInv (s : State) : Prop := ∀ c ∈ s.chans, c.state ≠ .uninit → ReadyChannel s.params c

/-- Every initialised channel's transmit buffer has the layout of R52. -/
abbrev FrameInv (s : State) : Prop := ∀ c ∈ s.chans, c.state ≠ .uninit → FrameLayout s.params c

/-- What holds of every state a run reaches. -/
structure Inv (s : State) : Prop where
  params : s.params.wf = true
  channels : 1 ≤ s.nCh ∧ s.nCh ≤ 256
  pair : PairInv s
  memory : MemInv s
  passive : PassiveInv s
  repeatTimer : RepeatTimerInv s
  ready : ReadyInv s
  frame : FrameInv s

/-! ### Words for statements -/

/-- Channel `ch` exists, has the record `c`, and is initialised. -/
abbrev Addressed (s : State) (ch : ChIdx) (c : Channel) : Prop :=
  s.chans[ch.toNat]? = some c ∧ c.state ≠ .uninit

/-- The state in which the command has been answered and nothing else has changed. -/
def replied (s : State) (code : ResultCode) (val : Byte) (dout : List Byte) : State :=
  { s with rsp := some ⟨code, val, dout, []⟩ }

/-- The state in which channel `ch` has the record `c`, the command has been answered with the code and the events, and
nothing else has changed. -/
def responded (s : State) (ch : ChIdx) (c : Channel) (code : ResultCode) (events : List Event) : State :=
  { s with chans := s.chans.set ch.toNat c, rsp := some ⟨code, 0, [], events⟩ }

/-- The events of `Sc` (R121). -/
def scEvents (g : GlobCfg) (ch : ChIdx) (old new : NmState) : List Event :=
  if g.stateChangeInd then [.stateChange ch old new] else []

/-- The events of `CancelRsi` (R137). -/
def cancelEvents (c : Channel) (ch : ChIdx) : List Event := if c.rsiIndicated then [.rsiCancel ch] else []

/-- The forwarding event of a reception (R187): user data is supported and owned by an external transport. -/
def forwardEvents (g : GlobCfg) (e : Event) : List Event := if g.userDataEn && g.udExternal then [e] else []

/-- Position `k` of an outgoing frame is one a statement may speak of: no user-data byte of a transport outside the block
(93 U7; notes/assumptions/14.md). -/
abbrev OwnByte (p : Params) (g : GlobCfg) (c : ChanCfg) (k : Nat) : Prop :=
  ¬ (g.userDataEn = true ∧ g.udExternal = true ∧ udOff p c ≤ k)

/-- The five timers after the three that every entry to Repeat-Message from sleep arms (R123). -/
def wokenTimers (c : Channel) : TimerArray :=
  { c.tm with
    timeout := ⟨true, c.cfg.tTimeout⟩
    msgCycle := ⟨true, c.cfg.tMsgOffset⟩
    repeatMsg := ⟨true, c.cfg.tRepeat⟩ }

/-- `rx'` is `rx` but for slot `slot`, which holds the frame `f` (R55). -/
abbrev SlotWritten (c : Channel) (slot : Nat) (f : List Byte) (rx' : Memory) : Prop :=
  ∀ a, readCell rx' a =
    if rxAddr slot 0 ≤ a ∧ a < rxAddr slot 0 + f.length then f[a - rxAddr slot 0]? else readCell c.rx a

/-- The control-bit-vector byte of the channel, where it is present, is in range and has the value `v`. -/
abbrev CbvReadable (p : Params) (c : Channel) (v : Byte) : Prop :=
  present p c.cfg.cbvPos = true →
    c.cfg.cbvPos.toNat < c.cfg.txLen.toNat ∧ readCell c.tx (txAddr c.cfg.cbvPos.toNat) = some v

/-- `tx'` is `tx` but for the control-bit-vector byte, which is `v` where it is present. -/
abbrev CbvWritten (p : Params) (c : Channel) (v : Byte) (tx' : Memory) : Prop :=
  ∀ a, readCell tx' a =
    if present p c.cfg.cbvPos = true ∧ a = txAddr c.cfg.cbvPos.toNat then some v else readCell c.tx a

/-- Two outcomes agree up to what `f` forgets: both go on to states that agree, or both stop for the same reason. -/
def AgreeUpTo (f : State → State) : Out State → Out State → Prop
  | .next t, .next t' => f t = f t'
  | .fault r, .fault r' => r = r'
  | .refused r, .refused r' => r = r'
  | _, _ => False

/-- The state without its `pn_confirmed` bits. -/
def forgetPn (s : State) : State := { s with chans := s.chans.map fun c => { c with pnConfirmed := false } }

/-- An event that is a state-change notification. -/
def Event.isStateChange : Event → Bool
  | .stateChange _ _ _ => true
  | _ => false

/-- The state without the notification flag and without the notifications of the last response. -/
def forgetNotification (s : State) : State :=
  { s with
    glob := { s.glob with stateChangeInd := false }
    rsp := s.rsp.map fun r => { r with events := r.events.filter fun e => !e.isStateChange } }

/-- The state without what R40 leaves unspecified after hardware reset: the configuration, TX and RX. -/
def forgetUnspecified (s : State) : State :=
  { s with
    glob := .zero
    chans := s.chans.map fun c => { c with cfg := .zero, tx := [], rx := [] } }

/-- A property of the record of channel `ch`. -/
def OnRecord (s : State) (ch : ChIdx) (P : Channel → Prop) : Prop := ∃ c, s.chans[ch.toNat]? = some c ∧ P c

/-- The table of R212: when a command is answered `E_PRECOND`. -/
def PrecondCause (s : State) : Instr → Prop
  | .init => False
  | .deinit => ∃ c ∈ s.chans, c.state ≠ .busSleep
  | .netreq ch => OnRecord s ch fun c => c.state = .uninit
  | .netrel ch => OnRecord s ch fun c => c.state = .uninit
  | .encom ch => OnRecord s ch fun c =>
      c.state = .uninit ∨ c.mode ≠ .network ∨ c.tm.msgCycle.run = true ∨ s.glob.passive = true
  | .discom ch => OnRecord s ch fun c => c.state = .uninit ∨ c.mode ≠ .network ∨ s.glob.passive = true
  | .setud ch => OnRecord s ch fun c =>
      c.state = .uninit ∨ s.glob.userDataEn = false ∨ s.glob.udExternal = true
  | .getud ch => OnRecord s ch fun c =>
      c.state = .uninit ∨ c.rxLast = Config.rxNone ∨ s.glob.userDataEn = false
  | .getnid ch => OnRecord s ch fun c =>
      c.state = .uninit ∨ c.rxLast = Config.rxNone ∨ c.cfg.nidEn = false ∨ c.cfg.nidPos = s.params.absent
  | .getlnid ch => OnRecord s ch fun c => c.state = .uninit ∨ c.cfg.nidEn = false
  | .rmreq ch => OnRecord s ch fun c =>
      c.state = .uninit ∨ (c.state ≠ .readySleep ∧ c.state ≠ .normalOperation) ∨ c.cfg.ndEn = false
  | .getpdu ch => OnRecord s ch fun c => c.state = .uninit ∨ c.rxLast = Config.rxNone
  | .getst _ => False
  | .bussync ch => OnRecord s ch fun c =>
      c.state = .uninit ∨ c.txEnabled = false ∨ s.glob.passive = true
  | .chkrsi ch => OnRecord s ch fun c =>
      c.state = .uninit ∨ (c.state ≠ .normalOperation ∧ c.state ≠ .readySleep) ∨ s.glob.rsiSupport = false
  | .setsrb ch => OnRecord s ch fun c => c.state = .uninit ∨ s.glob.coordSync = false
  | .txconf _ ch => OnRecord s ch fun c => c.state = .uninit
  | .rxind ch => OnRecord s ch fun c => c.state = .uninit
  | .pnconf ch => OnRecord s ch fun c => c.state = .uninit ∨ s.glob.pnGlobal = false ∨ c.cfg.pnEn = false
  | .trigtx ch => OnRecord s ch fun c => c.state = .uninit ∨ s.operands.cap.toNat < c.cfg.txLen.toNat
  | .tick => ∃ c ∈ s.chans, c.state = .uninit
  | .pstart ch => OnRecord s ch fun c => c.state = .uninit ∨ c.state ≠ .busSleep

/-- R82: the `din` stream of SETUD and RXIND has the length the channel's configuration gives. -/
def StreamFits (s : State) : Instr → Prop
  | .setud ch => ∀ c, s.chans[ch.toNat]? = some c → s.operands.din.length = udLen s.params c.cfg
  | .rxind ch => ∀ c, s.chans[ch.toNat]? = some c → s.operands.din.length = c.cfg.rxLen.toNat
  | _ => True

/-- The moves of a channel's state that R138 and R139 allow each command, TICK with the order R7 gives. -/
def MoveAllowed (i : Instr) (old new : NmState) : Prop :=
  match i with
  | .init => new = .busSleep
  | .deinit => old = .busSleep ∧ new = .uninit
  | .netreq _ =>
      (new = .repeatMessage ∧ (old = .busSleep ∨ old = .prepareBusSleep ∨ old = .readySleep ∨ old = .normalOperation))
        ∨ (old = .readySleep ∧ new = .normalOperation)
  | .netrel _ => old = .normalOperation ∧ new = .readySleep
  | .pstart _ => old = .busSleep ∧ new = .repeatMessage
  | .rmreq _ => new = .repeatMessage ∧ (old = .readySleep ∨ old = .normalOperation)
  | .rxind _ => new = .repeatMessage ∧ (old = .prepareBusSleep ∨ old = .readySleep ∨ old = .normalOperation)
  | .tick =>
      (old = .repeatMessage ∧ (new = .normalOperation ∨ new = .readySleep))
        ∨ (old = .readySleep ∧ (new = .prepareBusSleep ∨ new = .busSleep))
        ∨ (old = .prepareBusSleep ∧ new = .busSleep)
  | _ => False

/-- `n` TTicks of one timer in a row (R105). -/
def repeatTick (expire : TimerSel → Work → Out Work) (T : TimerSel) (e : Dur) : Nat → Work → Out Work
  | 0, w => .next w
  | n + 1, w => andThen (tTick expire T e w) (repeatTick expire T e n)

/-- The number of transmit requests among some events. -/
def txCount (events : List Event) : Nat :=
  (events.filter fun e => match e with | .txReq _ _ => true | _ => false).length

end Sys2Proof.Machine
end

