-- ==== Sys2Proof/Certificates/Slice0/Obligations.lean ====
section
/-! DEFINITION. The statements for the provers: what the numbered rules of spec/ say the commands and the machine do. Each
docstring names the rule it formalises. `responded` and `replied` change the channel's record and the response and nothing
else, so an equation with one of them is the frame as well. -/

open Sys2Proof Sys2Proof.Machine

/-! ### Words and steps -/

/-- R72, R73: decoding the word of a command gives the command back, with every operand at every value. -/
def Obligations.DecodeOfEncodeIsTheCommand : Prop := ∀ i : Instr, decode (encode i) = .ok i

/-- R72 to R75: a word that decodes to a command is that command's one word. -/
def Obligations.EncodeOfDecodeIsTheWord : Prop :=
  ∀ (w : CmdWord) (i : Instr), decode w = .ok i → encode i = w

/-- R73: words written out from the opcode map stand for the commands of the map. -/
def Obligations.SampleWordsDecodeAsListed : Prop :=
  decode 0x0800 = .ok .init ∧ decode 0x1801 = .ok (.netreq 1) ∧ decode 0x68FF = .ok (.getst 0xFF)
    ∧ decode 0x8802 = .ok (.txconf false 2) ∧ decode 0x8902 = .ok (.txconf true 2)
    ∧ decode 0x9000 = .ok (.rxind 0) ∧ decode 0xA800 = .ok .tick ∧ decode 0xB003 = .ok (.pstart 3)

/-- R70, R72: a command word that decodes to a well-formed command runs that command on its operands, and the rest of the
inputs stays to come. -/
def Obligations.StepRunsTheDecodedCommand : Prop :=
  ∀ (s : State) (c : Command) (rest : List Input) (i : Instr),
    s.port = .command c :: rest → decode c.word = .ok i → i.wf s.nCh = true →
      step s = exec i { s with operands := c.operands, port := rest }

/-- R74: a word with a reserved opcode is answered `E_ILLEGAL` with no event and no change, and no two words stand for one
command. -/
def Obligations.ReservedOpcodesAreAnsweredIllegal : Prop :=
  (∀ (s : State) (c : Command) (rest : List Input), s.port = .command c :: rest →
    ((opField c.word).toNat = 0 ∨ 0x17 ≤ (opField c.word).toNat) →
      step s = .next (replied { s with operands := c.operands, port := rest } .eIllegal 0 []))
  ∧ (∀ (w w' : CmdWord) (i : Instr), decode w = .ok i → decode w' = .ok i → w = w')

/-- R75: a word that breaks a reserved field, or names a channel the block does not have, is answered `E_ILLEGAL` before
every other check. -/
def Obligations.ReservedFieldsAreAnsweredIllegal : Prop :=
  ∀ (s : State) (c : Command) (rest : List Input), s.port = .command c :: rest →
    (((opField c.word).toNat ≠ 0x11 ∧ argField c.word ≠ 0)
      ∨ ((opField c.word).toNat = 0x11 ∧ (argField c.word).extractLsb' 1 2 ≠ 0)
      ∨ (((opField c.word).toNat = 0x01 ∨ (opField c.word).toNat = 0x02 ∨ (opField c.word).toNat = 0x15)
          ∧ chField c.word ≠ 0)
      ∨ ((opField c.word).toNat ≠ 0x01 ∧ (opField c.word).toNat ≠ 0x02 ∧ (opField c.word).toNat ≠ 0x15
          ∧ s.nCh ≤ (chField c.word).toNat)) →
      step s = .next (replied { s with operands := c.operands, port := rest } .eIllegal 0 [])

/-- R240: what hardware reset leaves in every channel, for any number of channels and any parameters; TX and RX hold no
value. The `rst` input brings the block there from any state. What the second clause says beyond R240 is the model's choice:
every configuration register is 0 (notes/assumptions/1.md, unsafe: R240 and 93 U4 leave them unspecified), the inputs still
to come stay (notes/assumptions/8.md), and there is no response (notes/assumptions/9.md). -/
def Obligations.HardwareResetLeavesTheListedValues : Prop :=
  (∀ (p : Params) (n : Nat) (port : List Input) (c : Channel), c ∈ (State.resetWith p n port).chans →
    c.state = .uninit ∧ c.mode = .busSleep ∧ c.requested = false ∧ c.txEnabled = false ∧ c.rxLast = 0xFF
      ∧ c.immTxCnt = 0 ∧ c.blrActive = false ∧ c.rsiIndicated = false ∧ c.rsiEnabled = false
      ∧ c.pnConfirmed = false ∧ (∀ T, getTimer c T = ⟨false, 0⟩)
      ∧ (∀ a, readCell c.tx a = none ∧ readCell c.rx a = none))
  ∧ (∀ (s : State) (rest : List Input), s.port = .rst :: rest →
      step s = .next (State.resetWith s.params s.nCh rest))

/-! ### Result codes -/

/-- R210: in Uninit every command to the channel but GETST is answered `E_PRECOND`, GETST succeeds, TICK and DEINIT are
answered `E_PRECOND`, and INIT with a legal record succeeds. -/
def Obligations.UninitRefusesAllButGetstAndInit : Prop :=
  (∀ (s : State) (i : Instr) (ch : ChIdx) (c : Channel), i.channel? = some ch → i ≠ .getst ch →
    s.chans[ch.toNat]? = some c → c.state = .uninit → exec i s = .next (replied s .ePrecond 0 []))
  ∧ (∀ (s : State) (ch : ChIdx) (c : Channel), s.chans[ch.toNat]? = some c → c.state = .uninit →
      exec (.getst ch) s = .next (replied s .ok (stateModeByte .uninit c.mode) []))
  ∧ (∀ s : State, (∃ c ∈ s.chans, c.state = .uninit) →
      exec .tick s = .next (replied s .ePrecond 0 []) ∧ exec .deinit s = .next (replied s .ePrecond 0 []))
  ∧ (∀ s : State, s.operands.cfg.chans.length = s.nCh → legalCfg s.params s.operands.cfg = true →
      ∃ t, exec .init s = .next t ∧ t.rsp = some ⟨.ok, 0, [], []⟩)

/-- R211: a command that ends with a code other than OK has changed no state and emitted no event; the exception is BUSSYNC
with `E_BUS`, whose one event is its transmit request. -/
def Obligations.FailedCommandsChangeNothing : Prop :=
  ∀ (i : Instr) (s t : State) (r : Response), exec i s = .next t → t.rsp = some r → r.code ≠ .ok →
    t = { s with rsp := some r }
      ∧ (r.code ≠ .eBus → r.events = [])
      ∧ (r.code = .eBus → ∃ ch f, i = .bussync ch ∧ r.events = [.txReq ch f])

/-- R212: a well-formed command whose stream operand has its length is answered `E_PRECOND` exactly in the cases the table
lists, and a well-formed command other than BUSSYNC is answered with no other code than OK and `E_PRECOND`. -/
def Obligations.PrecondExactlyInTheListedCases : Prop :=
  (∀ (i : Instr) (s : State), i.wf s.nCh = true → StreamFits s i →
    ((∃ t r, exec i s = .next t ∧ t.rsp = some r ∧ r.code = .ePrecond) ↔ PrecondCause s i))
  ∧ (∀ (i : Instr) (s t : State) (r : Response), i.wf s.nCh = true → (∀ ch, i ≠ .bussync ch) → exec i s = .next t →
      t.rsp = some r → r.code = .ok ∨ r.code = .ePrecond)

/-! ### Lifecycle and configuration -/

/-- R36(c): the legal pairs of positions are the five listed, for every value of the sentinel that is no legal position. -/
def Obligations.LegalPositionsAreTheFivePairs : Prop :=
  ∀ (p : Params) (c : ChanCfg), p.wf = true → legalChan p c = true →
    (c.nidPos = p.absent ∧ c.cbvPos = p.absent) ∨ (c.nidPos = 0 ∧ c.cbvPos = p.absent)
      ∨ (c.nidPos = p.absent ∧ c.cbvPos = 0) ∨ (c.nidPos = 0 ∧ c.cbvPos = 1) ∨ (c.nidPos = 1 ∧ c.cbvPos = 0)

/-- R150, R40: INIT with a legal record latches it and leaves every channel as listed: TX holds the node identifier and a
zero control-bit-vector where present and 0xFF elsewhere inside the frame, RX is not written. -/
def Obligations.InitLeavesEveryChannelAsListed : Prop :=
  ∀ s : State, s.operands.cfg.chans.length = s.nCh → legalCfg s.params s.operands.cfg = true →
    ∃ chans', exec .init s = .next { s with glob := s.operands.cfg.glob, chans := chans', rsp := some ⟨.ok, 0, [], []⟩ }
      ∧ chans'.length = s.nCh
      ∧ ∀ (k : Nat) (c : Channel) (f : ChanCfg), s.chans[k]? = some c → s.operands.cfg.chans[k]? = some f →
        ∃ tx', chans'[k]? = some
            { cfg := f, mode := .busSleep, state := .busSleep, requested := false, txEnabled := false
              rxLast := 0xFF, immTxCnt := 0, blrActive := false, rsiIndicated := false
              rsiEnabled := s.operands.cfg.glob.rsiSupport, pnConfirmed := false
              tm := ⟨⟨false, 0⟩, ⟨false, 0⟩, ⟨false, 0⟩, ⟨false, 0⟩, ⟨false, 0⟩⟩, tx := tx', rx := c.rx }
          ∧ ∀ a, readCell tx' a =
              if present s.params f.nidPos = true ∧ a = f.nidPos.toNat then some f.nodeId
              else if present s.params f.cbvPos = true ∧ a = f.cbvPos.toNat then some 0
              else if a < f.txLen.toNat then some 0xFF
              else readCell c.tx a

/-- R150(a): a second INIT with the same record leaves the same state as one. -/
def Obligations.InitIsIdempotent : Prop :=
  ∀ s t : State, MemInv s → exec .init s = .next t → exec .init t = .next t

/-- 93 U1 and R36: INIT with an illegal record is refused by the model; so is, by the model's own choice
(notes/assumptions/12.md, DEDUCED), INIT with a record of another number of channels. -/
def Obligations.InitRefusesWhatIsNoLegalRecord : Prop :=
  ∀ s : State,
    (s.operands.cfg.chans.length ≠ s.nCh → exec .init s = .refused .configurationShape)
    ∧ (s.operands.cfg.chans.length = s.nCh → legalCfg s.params s.operands.cfg = false →
        exec .init s = .refused .illegalConfiguration)

/-- R151: DEINIT moves every channel to Uninit when all are in Bus-Sleep, and otherwise does nothing but answer
`E_PRECOND`. -/
def Obligations.DeinitIsAllOrNothing : Prop :=
  ∀ s : State,
    ((∀ c ∈ s.chans, c.state = .busSleep) →
      exec .deinit s = .next { s with chans := s.chans.map fun c => { c with state := .uninit }
                                      rsp := some ⟨.ok, 0, [], []⟩ })
    ∧ ((∃ c ∈ s.chans, c.state ≠ .busSleep) → exec .deinit s = .next (replied s .ePrecond 0 []))

/-! ### Network request and release -/

/-- R152, R123, R134: NETREQ in a sleeping mode sets the active-wakeup bit if configured, enters Repeat-Message, arms the
three timers, loads or clears the burst counter and enables transmission unless passive. -/
def Obligations.NetreqWakesASleepingChannel : Prop :=
  ∀ (s : State) (ch : ChIdx) (c : Channel) (v : Byte), Addressed s ch c → c.mode ≠ .network →
    (c.cfg.awEn = true → CbvReadable s.params c v) →
      ∃ tx', (c.cfg.awEn = true → CbvWritten s.params c (v ||| ((1 : Byte) <<< s.params.cbvAw.val)) tx')
        ∧ (c.cfg.awEn = false → tx' = c.tx)
        ∧ exec (.netreq ch) s = .next (responded s ch
            { c with mode := .network, state := .repeatMessage, requested := true, txEnabled := !s.glob.passive
                     immTxCnt := if c.cfg.immTxEn then c.cfg.immTxCount else 0, blrActive := false
                     tm := wokenTimers c, tx := tx' }
            .ok (.networkMode ch :: scEvents s.glob ch c.state .repeatMessage))

/-- R152, R127, R131, R136: NETREQ in Network mode under the multi-request policy re-enters Repeat-Message from each of the
three network states, loading the burst counter. -/
def Obligations.NetreqReentersRepeatMessageUnderThePolicy : Prop :=
  ∀ (s : State) (ch : ChIdx) (c : Channel), Addressed s ch c → c.mode = .network →
    c.cfg.multiReqEn = true → c.cfg.immTxEn = true →
    let tm' := { c.tm with repeatMsg := ⟨true, c.cfg.tRepeat⟩, msgCycle := ⟨true, c.cfg.tMsgOffset⟩ }
    (c.state = .readySleep → exec (.netreq ch) s = .next (responded s ch
        { c with state := .repeatMessage, requested := true, txEnabled := if s.glob.passive then c.txEnabled else true
                 immTxCnt := c.cfg.immTxCount, rsiIndicated := false, tm := tm' }
        .ok (cancelEvents c ch ++ scEvents s.glob ch .readySleep .repeatMessage)))
    ∧ (c.state = .normalOperation → exec (.netreq ch) s = .next (responded s ch
        { c with state := .repeatMessage, requested := true, blrActive := false
                 immTxCnt := c.cfg.immTxCount, rsiIndicated := false, tm := tm' }
        .ok (cancelEvents c ch ++ scEvents s.glob ch .normalOperation .repeatMessage)))
    ∧ (c.state = .repeatMessage → exec (.netreq ch) s = .next (responded s ch
        { c with requested := true, immTxCnt := c.cfg.immTxCount, tm := tm' } .ok []))

/-- R152, R130: NETREQ in Network mode without the policy returns a Ready-Sleep channel to Normal-Operation and only sets
`requested` in the other states. -/
def Obligations.NetreqWithoutThePolicyResumesOrOnlyLatches : Prop :=
  ∀ (s : State) (ch : ChIdx) (c : Channel), Addressed s ch c → c.mode = .network →
    ¬ (c.cfg.multiReqEn = true ∧ c.cfg.immTxEn = true) →
    (c.state = .readySleep → exec (.netreq ch) s = .next (responded s ch
        { c with state := .normalOperation, requested := true
                 txEnabled := if s.glob.passive then c.txEnabled else true, blrActive := c.cfg.blrEn
                 tm := { c.tm with msgCycle := ⟨true, c.cfg.tMsgOffset⟩ } }
        .ok (scEvents s.glob ch .readySleep .normalOperation)))
    ∧ (c.state ≠ .readySleep →
        exec (.netreq ch) s = .next (responded s ch { c with requested := true } .ok []))

/-- R153: NETREL always clears `requested`; from Normal-Operation it goes to Ready-Sleep and disables transmission. -/
def Obligations.NetrelReleasesFromNormalOperationOnly : Prop :=
  ∀ (s : State) (ch : ChIdx) (c : Channel), Addressed s ch c →
    (c.state = .normalOperation → exec (.netrel ch) s = .next (responded s ch
        { c with state := .readySleep, requested := false, txEnabled := false }
        .ok (scEvents s.glob ch .normalOperation .readySleep)))
    ∧ (c.state ≠ .normalOperation →
        exec (.netrel ch) s = .next (responded s ch { c with requested := false } .ok []))

/-- R154, R123: PSTART in Bus-Sleep enters Repeat-Message without a burst and without the active-wakeup bit, leaving
`requested`; in every other state it is refused. -/
def Obligations.PstartWakesFromBusSleepOnly : Prop :=
  ∀ (s : State) (ch : ChIdx) (c : Channel), Addressed s ch c →
    (c.state = .busSleep → exec (.pstart ch) s = .next (responded s ch
        { c with mode := .network, state := .repeatMessage, txEnabled := !s.glob.passive, immTxCnt := 0
                 blrActive := false, tm := wokenTimers c }
        .ok (.networkMode ch :: scEvents s.glob ch .busSleep .repeatMessage)))
    ∧ (c.state ≠ .busSleep → exec (.pstart ch) s = .next (replied s .ePrecond 0 []))

/-! ### Communication control -/

/-- R155, R156: past their gates DISCOM disables transmission, stops the two timers keeping their countdowns and clears
`rsi_enabled`, and ENCOM, its mirror, enables transmission, resumes the two timers where they stood and restores
`rsi_enabled`. -/
def Obligations.DiscomFreezesAndEncomResumes : Prop :=
  ∀ (s : State) (ch : ChIdx) (c : Channel), Addressed s ch c → c.mode = .network → s.glob.passive = false →
    exec (.discom ch) s = .next (responded s ch
      { c with txEnabled := false, rsiEnabled := false
               tm := { c.tm with msgCycle := ⟨false, c.tm.msgCycle.cnt⟩, timeout := ⟨false, c.tm.timeout.cnt⟩ } } .ok [])
    ∧ (c.tm.msgCycle.run = false →
      exec (.encom ch) s = .next (responded s ch
        { c with txEnabled := true, rsiEnabled := s.glob.rsiSupport
                 tm := { c.tm with msgCycle := ⟨true, c.tm.msgCycle.cnt⟩, timeout := ⟨true, c.tm.timeout.cnt⟩ } } .ok []))

/-! ### Repeat-message request, bus synchronisation, flags -/

/-- R157, R127, R131: RMREQ past its gates sets the repeat-message bit where the position is present and enters
Repeat-Message from Ready-Sleep or Normal-Operation. -/
def Obligations.RmreqSetsTheBitAndRepeats : Prop :=
  ∀ (s : State) (ch : ChIdx) (c : Channel) (v : Byte), Addressed s ch c → c.cfg.ndEn = true →
    (c.state = .readySleep ∨ c.state = .normalOperation) → CbvReadable s.params c v →
    let tm' := { c.tm with repeatMsg := ⟨true, c.cfg.tRepeat⟩, msgCycle := ⟨true, c.cfg.tMsgOffset⟩ }
    ∃ tx', CbvWritten s.params c (v ||| ((1 : Byte) <<< s.params.cbvRmr.val)) tx'
      ∧ exec (.rmreq ch) s = .next (responded s ch
          { c with state := .repeatMessage, rsiIndicated := false, tm := tm', tx := tx'
                   txEnabled := if c.state = .readySleep ∧ s.glob.passive = false then true else c.txEnabled
                   blrActive := if c.state = .readySleep then c.blrActive else false }
          .ok (cancelEvents c ch ++ scEvents s.glob ch c.state .repeatMessage))

/-- R158, R226: BUSSYNC past its gates hands the transmit buffer as it stands to the bus, changes no register, and answers
OK or `E_BUS` by the bus answer. (No claim on the user-data bytes of an external transport: 93 U7.) -/
def Obligations.BussyncTransmitsTheBufferAsItStands : Prop :=
  ∀ (s : State) (ch : ChIdx) (c : Channel) (ok : Bool) (rest : List Bool), Addressed s ch c →
    c.txEnabled = true → s.glob.passive = false → TxReadable c → s.operands.back = ok :: rest →
      ∃ f, f.length = c.cfg.txLen.toNat
        ∧ (∀ k, k < c.cfg.txLen.toNat → OwnByte s.params s.glob c.cfg k → readCell c.tx (txAddr k) = f[k]?)
        ∧ exec (.bussync ch) s =
            .next { s with rsp := some ⟨if ok then .ok else .eBus, 0, [], [.txReq ch f]⟩ }

/-- R159, R161, R183: past their gates CHKRSI, GETST and GETLNID answer with their value and change nothing; for a legal
pair the value of GETST is one of the six listed. -/
def Obligations.FlagAndStateReadersAnswerTheirValue : Prop :=
  ∀ (s : State) (ch : ChIdx) (c : Channel), s.chans[ch.toNat]? = some c →
    exec (.getst ch) s = .next (replied s .ok ((0 : BitVec 3) ++ c.state.code ++ c.mode.code) [])
    ∧ (s.glob.rsiSupport = true → (c.state = .normalOperation ∨ c.state = .readySleep) →
        exec (.chkrsi ch) s = .next (replied s .ok (if c.rsiIndicated then 1 else 0) []))
    ∧ (c.state ≠ .uninit → c.cfg.nidEn = true →
        exec (.getlnid ch) s = .next (replied s .ok c.cfg.nodeId []))
    ∧ (legalPair c.mode c.state = true →
        (0 : BitVec 3) ++ c.state.code ++ c.mode.code ∈ ([0x00, 0x04, 0x09, 0x0E, 0x12, 0x16] : List Byte))

/-- R160, R162: past their gates SETSRB sets the coordinator bit of the outgoing frame and PNCONF sets `pn_confirmed`, and
nothing else changes. -/
def Obligations.SetsrbAndPnconfSetOneBit : Prop :=
  ∀ (s : State) (ch : ChIdx) (c : Channel) (v : Byte), Addressed s ch c →
    (s.glob.coordSync = true → CbvReadable s.params c v →
      ∃ tx', CbvWritten s.params c (v ||| ((1 : Byte) <<< s.params.cbvCsr.val)) tx'
        ∧ exec (.setsrb ch) s = .next (responded s ch { c with tx := tx' } .ok []))
    ∧ (s.glob.pnGlobal = true → c.cfg.pnEn = true →
        exec (.pnconf ch) s = .next (responded s ch { c with pnConfirmed := true } .ok []))

/-! ### Data commands -/

/-- R180: SETUD past its gates writes its bytes to the user-data region and to nothing else: every byte outside it, the
node identifier and the control-bit-vector among them, reads as before. -/
def Obligations.SetudWritesTheUserDataRegionOnly : Prop :=
  ∀ (s : State) (ch : ChIdx) (c : Channel), Addressed s ch c → s.glob.userDataEn = true → s.glob.udExternal = false →
    udOff s.params c.cfg ≤ c.cfg.txLen.toNat → s.operands.din.length = c.cfg.txLen.toNat - udOff s.params c.cfg →
      ∃ tx', exec (.setud ch) s = .next (responded s ch { c with tx := tx' } .ok [])
        ∧ ∀ a, readCell tx' a =
            if udOff s.params c.cfg ≤ a ∧ a < c.cfg.txLen.toNat then s.operands.din[a - udOff s.params c.cfg]?
            else readCell c.tx a

/-- R181, R182, R184: past their gates GETPDU, GETUD and GETNID answer with the bytes of the newest frame and change
nothing. -/
def Obligations.FrameReadersAnswerTheNewestFrame : Prop :=
  ∀ (s : State) (ch : ChIdx) (c : Channel), Addressed s ch c → RxReadable c →
    ∃ f, f.length = c.cfg.rxLen.toNat
      ∧ (∀ k, k < c.cfg.rxLen.toNat → readCell c.rx (rxAddr c.rxLast.toNat k) = f[k]?)
      ∧ exec (.getpdu ch) s = .next (replied s .ok 0 f)
      ∧ (s.glob.userDataEn = true → udOff s.params c.cfg ≤ c.cfg.rxLen.toNat →
          exec (.getud ch) s = .next (replied s .ok 0 (f.drop (udOff s.params c.cfg))))
      ∧ (c.cfg.nidEn = true → c.cfg.nidPos ≠ s.params.absent → c.cfg.nidPos.toNat < c.cfg.rxLen.toNat →
          ∃ b, f[c.cfg.nidPos.toNat]? = some b ∧ exec (.getnid ch) s = .next (replied s .ok b []))

/-- R185: TRIGTX into a large enough buffer answers with exactly the transmit buffer, into a smaller one with `E_PRECOND`
and no byte; it changes nothing. (No claim on the user-data bytes of an external transport: 93 U7.) -/
def Obligations.TrigtxCopiesTheFrameOrNothing : Prop :=
  ∀ (s : State) (ch : ChIdx) (c : Channel), Addressed s ch c → TxReadable c →
    (c.cfg.txLen.toNat ≤ s.operands.cap.toNat →
      ∃ f, f.length = c.cfg.txLen.toNat
        ∧ (∀ k, k < c.cfg.txLen.toNat → OwnByte s.params s.glob c.cfg k → readCell c.tx (txAddr k) = f[k]?)
        ∧ exec (.trigtx ch) s = .next (replied s .ok 0 f))
    ∧ (s.operands.cap.toNat < c.cfg.txLen.toNat → exec (.trigtx ch) s = .next (replied s .ePrecond 0 []))

/-- Source §8, R180, R187, R181: user data set, received back in that very frame and read again are the bytes that were
set, when the two frame lengths agree. -/
def Obligations.UserDataRoundTrip : Prop :=
  ∀ (s t u : State) (ch : ChIdx) (c : Channel) (d f : List Byte), Addressed s ch c → legalChan s.params c.cfg = true →
    c.cfg.rxLen = c.cfg.txLen → s.glob.userDataEn = true → s.glob.udExternal = false →
    exec (.setud ch) { s with operands := { s.operands with din := d } } = .next t →
    exec (.trigtx ch) t = .next u → u.rsp = some ⟨.ok, 0, f, []⟩ →
      ∃ x y, exec (.rxind ch) { u with operands := { u.operands with din := f } } = .next x
        ∧ exec (.getud ch) x = .next y ∧ y.rsp = some ⟨.ok, 0, d, []⟩

/-! ### Commands of the bus interface -/

/-- R186: TXCONF re-arms the timeout timer on success in Network mode, and forwards the result if configured. -/
def Obligations.TxconfRearmsTheTimeoutOnSuccess : Prop :=
  ∀ (s : State) (ch : ChIdx) (c : Channel) (failed : Bool), Addressed s ch c →
    exec (.txconf failed ch) s = .next (responded s ch
      { c with tm := if failed = false ∧ c.mode = .network then { c.tm with timeout := ⟨true, c.cfg.tTimeout⟩ } else c.tm }
      .ok (forwardEvents s.glob (.udTxConf ch failed)))

/-- R187, R55, R122, R134: RXIND in a sleeping mode stores the frame in the next slot, which is below the ring's depth; in
Bus-Sleep it only notifies, in Prepare-Bus-Sleep it wakes the channel. -/
def Obligations.RxindStoresAndWakesFromPrepareBusSleep : Prop :=
  ∀ (s : State) (ch : ChIdx) (c : Channel) (slot : Nat), Addressed s ch c →
    s.operands.din.length = c.cfg.rxLen.toNat → 1 ≤ c.cfg.rxDepth.toNat →
    slot = (if c.rxLast = 0xFF then 0 else (c.rxLast.toNat + 1) % c.cfg.rxDepth.toNat) →
    slot < c.cfg.rxDepth.toNat
    ∧ (c.mode = .busSleep → ∃ rx', SlotWritten c slot s.operands.din rx'
        ∧ exec (.rxind ch) s = .next (responded s ch { c with rxLast := BitVec.ofNat 8 slot, rx := rx' }
            .ok (forwardEvents s.glob (.udRx ch s.operands.din) ++ .networkStart ch ::
              scEvents s.glob ch .busSleep .busSleep)))
    ∧ (c.mode = .prepareBusSleep → ∃ rx', SlotWritten c slot s.operands.din rx'
        ∧ exec (.rxind ch) s = .next (responded s ch
            { c with mode := .network, state := .repeatMessage, txEnabled := !s.glob.passive, immTxCnt := 0
                     blrActive := false, rxLast := BitVec.ofNat 8 slot, tm := wokenTimers c, rx := rx' }
            .ok (forwardEvents s.glob (.udRx ch s.operands.din) ++ .networkMode ch ::
              scEvents s.glob ch c.state .repeatMessage)))

/-- R187, R124, R128, R132: RXIND in Network mode without a repeat-message bit to follow re-arms the timeout timer, cancels
an indication and re-arms the remote-sleep timer in Normal-Operation while `rsi_enabled`, and re-arms the message-cycle timer
at the reduced period while `blr_active`. -/
def Obligations.RxindInNetworkModeKeepsTheState : Prop :=
  ∀ (s : State) (ch : ChIdx) (c : Channel) (slot : Nat), Addressed s ch c → c.mode = .network →
    s.operands.din.length = c.cfg.rxLen.toNat → 1 ≤ c.cfg.rxDepth.toNat →
    slot = (if c.rxLast = 0xFF then 0 else (c.rxLast.toNat + 1) % c.cfg.rxDepth.toNat) →
    (cbvRxBit s.params c.cfg s.operands.din s.params.cbvRmr = false
      ∨ (c.state ≠ .normalOperation ∧ c.state ≠ .readySleep)) →
    ∃ rx', SlotWritten c slot s.operands.din rx'
      ∧ exec (.rxind ch) s = .next (responded s ch
          { c with rxLast := BitVec.ofNat 8 slot, rx := rx', rsiIndicated := c.rsiIndicated && !c.rsiEnabled
                   tm := { c.tm with
                     timeout := ⟨true, c.cfg.tTimeout⟩
                     msgCycle := if c.blrActive then ⟨true, c.cfg.tReduced⟩ else c.tm.msgCycle
                     remoteSleep := if c.rsiEnabled = true ∧ c.state = .normalOperation then ⟨true, c.cfg.tRsi⟩
                                    else c.tm.remoteSleep } }
          .ok (forwardEvents s.glob (.udRx ch s.operands.din) ++
            if c.rsiEnabled && c.rsiIndicated then [.rsiCancel ch] else []))

/-- R187(d), R127, R131: RXIND with the repeat-message bit in Normal-Operation or Ready-Sleep re-arms the timeout timer and
then enters Repeat-Message. -/
def Obligations.RxindWithTheBitEntersRepeatMessage : Prop :=
  ∀ (s : State) (ch : ChIdx) (c : Channel) (slot : Nat), Addressed s ch c → c.mode = .network →
    s.operands.din.length = c.cfg.rxLen.toNat → 1 ≤ c.cfg.rxDepth.toNat →
    slot = (if c.rxLast = 0xFF then 0 else (c.rxLast.toNat + 1) % c.cfg.rxDepth.toNat) →
    cbvRxBit s.params c.cfg s.operands.din s.params.cbvRmr = true →
    (c.state = .normalOperation ∨ c.state = .readySleep) →
    ∃ rx', SlotWritten c slot s.operands.din rx'
      ∧ exec (.rxind ch) s = .next (responded s ch
          { c with state := .repeatMessage, rxLast := BitVec.ofNat 8 slot, rx := rx', rsiIndicated := false
                   txEnabled := if c.state = .readySleep ∧ s.glob.passive = false then true else c.txEnabled
                   blrActive := if c.state = .readySleep then c.blrActive else false
                   tm := { c.tm with
                     timeout := ⟨true, c.cfg.tTimeout⟩
                     msgCycle := ⟨true, c.cfg.tMsgOffset⟩
                     repeatMsg := ⟨true, c.cfg.tRepeat⟩
                     remoteSleep := if c.rsiEnabled = true ∧ c.state = .normalOperation then ⟨true, c.cfg.tRsi⟩
                                    else c.tm.remoteSleep } }
          .ok (forwardEvents s.glob (.udRx ch s.operands.din) ++ cancelEvents c ch ++
            scEvents s.glob ch c.state .repeatMessage))

/-- R143: the received control bit is bit `b` of the byte at the configured position, and 0 where the field is absent or
lies past the frame. -/
def Obligations.ReceivedControlBitIsTheConfiguredOne : Prop :=
  ∀ (p : Params) (c : ChanCfg) (f : List Byte) (b : Fin 8),
    ((c.cbvPos = p.absent ∨ c.rxLen.toNat ≤ c.cbvPos.toNat) → cbvRxBit p c f b = false)
    ∧ (∀ v, c.cbvPos ≠ p.absent → c.cbvPos.toNat < c.rxLen.toNat → f[c.cbvPos.toNat]? = some v →
        cbvRxBit p c f b = decide ((v >>> b.val) &&& 1 = 1))

/-! ### Timers, framer, handlers -/

/-- R100 to R103: what the four micro-operations write to the timer they name; every other timer keeps its registers. -/
def Obligations.TimerOperationsWriteOneTimer : Prop :=
  ∀ (c : Channel) (T U : TimerSel) (d : Dur),
    getTimer (tStart c T d) T = ⟨true, d⟩ ∧ getTimer (tResume c T) T = ⟨true, (getTimer c T).cnt⟩
    ∧ getTimer (tStop c T) T = ⟨false, (getTimer c T).cnt⟩ ∧ getTimer (tReset c T d) T = ⟨false, d⟩
    ∧ (U ≠ T → getTimer (tStart c T d) U = getTimer c U ∧ getTimer (tResume c T) U = getTimer c U
        ∧ getTimer (tStop c T) U = getTimer c U ∧ getTimer (tReset c T d) U = getTimer c U)

/-- R105: a timer started with `D` and then only ticked with a period `P > 0` expires once, at tick number
`max(1, ceil(D / P))`, provided its handler does not touch it: here the handler only emits an event. -/
def Obligations.StartedTimerExpiresExactlyOnce : Prop :=
  ∀ (c : Channel) (T : TimerSel) (D P : Dur) (e : Event) (back : List Bool) (n : Nat), 0 < P.toNat →
    let due := max 1 ((D.toNat + P.toNat - 1) / P.toNat)
    ∃ w, repeatTick (fun _ w => .next (emit e w)) T P n ⟨tStart c T D, [], back⟩ = .next w
      ∧ w.events = (if due ≤ n then [e] else [])
      ∧ (getTimer w.chan T).run = decide (n < due)

/-- R140 to R142: the framer's operations change the control-bit-vector byte as listed and no other byte, and nothing where
the position is absent. -/
def Obligations.FramerChangesOneByte : Prop :=
  ∀ (p : Params) (c : Channel) (b : Fin 8) (v : Byte), CbvReadable p c v →
    (∃ tx', cbvSet p b c = .next { c with tx := tx' } ∧ CbvWritten p c (v ||| ((1 : Byte) <<< b.val)) tx')
    ∧ (∃ tx', cbvClr p b c = .next { c with tx := tx' } ∧ CbvWritten p c (v &&& ~~~((1 : Byte) <<< b.val)) tx')
    ∧ (∃ tx', cbvClrAll p c = .next { c with tx := tx' } ∧ CbvWritten p c 0 tx')

/-- R220: the timeout handler re-arms its timer in Repeat-Message and Normal-Operation, with the notification when the
channel may transmit, takes a Ready-Sleep channel to Prepare-Bus-Sleep, and does nothing elsewhere. -/
def Obligations.TimeoutHandlerActsByState : Prop :=
  ∀ (e : Env) (w : Work) (v : Byte),
    ((w.chan.state = .repeatMessage ∨ w.chan.state = .normalOperation) →
      expire e .timeout w = .next
        ⟨{ w.chan with tm := { w.chan.tm with timeout := ⟨true, w.chan.cfg.tTimeout⟩ } },
          w.events ++ (if w.chan.txEnabled then [.txTimeout e.idx] else []), w.back⟩)
    ∧ (w.chan.state = .readySleep → (w.chan.cfg.awEn = true → CbvReadable e.params w.chan v) →
      ∃ tx', (w.chan.cfg.awEn = true → CbvWritten e.params w.chan (v &&& ~~~((1 : Byte) <<< e.params.cbvAw.val)) tx')
        ∧ (w.chan.cfg.awEn = false → tx' = w.chan.tx)
        ∧ expire e .timeout w = .next
          ⟨{ w.chan with mode := .prepareBusSleep, state := .prepareBusSleep, tx := tx'
                         tm := { w.chan.tm with waitBusSleep := ⟨true, w.chan.cfg.tWbs⟩ } },
            w.events ++ .prepareBusSleep e.idx :: scEvents e.glob e.idx .readySleep .prepareBusSleep, w.back⟩)
    ∧ (w.chan.state ≠ .repeatMessage → w.chan.state ≠ .normalOperation → w.chan.state ≠ .readySleep →
      expire e .timeout w = .next w)

/-- R221: the message-cycle handler transmits in the two transmitting states while `tx_enabled`, and re-arms by the burst
counter and the answer; otherwise it does nothing. (No claim on the user-data bytes of an external transport: 93 U7.) -/
def Obligations.MessageCycleHandlerTransmitsAndPaces : Prop :=
  ∀ (e : Env) (w : Work) (ok : Bool) (rest : List Bool),
    ((w.chan.state = .repeatMessage ∨ w.chan.state = .normalOperation) → w.chan.txEnabled = true →
      TxReadable w.chan → w.back = ok :: rest →
      ∃ f, f.length = w.chan.cfg.txLen.toNat
        ∧ (∀ k, k < w.chan.cfg.txLen.toNat → OwnByte e.params e.glob w.chan.cfg k →
            readCell w.chan.tx (txAddr k) = f[k]?)
        ∧ expire e .msgCycle w = .next
          ⟨{ w.chan with
              immTxCnt := if w.chan.immTxCnt ≠ 0 ∧ ok = true then w.chan.immTxCnt - 1 else w.chan.immTxCnt
              tm := { w.chan.tm with msgCycle := ⟨true,
                if w.chan.immTxCnt = 0 then w.chan.cfg.tMsgCycle
                else if ok = false then 0
                else if w.chan.immTxCnt = 1 then w.chan.cfg.tMsgCycle
                else w.chan.cfg.tImmCycle⟩ } },
            w.events ++ [.txReq e.idx f], rest⟩)
    ∧ (¬ ((w.chan.state = .repeatMessage ∨ w.chan.state = .normalOperation) ∧ w.chan.txEnabled = true) →
      expire e .msgCycle w = .next w)

/-- R222, R125, R126: the repeat-message handler goes to Normal-Operation or Ready-Sleep by `requested`; it clears the
control-bit-vector, towards Ready-Sleep with node detection only. -/
def Obligations.RepeatMessageHandlerGoesByRequested : Prop :=
  ∀ (e : Env) (w : Work),
    (present e.params w.chan.cfg.cbvPos = true → w.chan.cfg.cbvPos.toNat < w.chan.cfg.txLen.toNat) →
    w.chan.state = .repeatMessage →
    (w.chan.requested = true →
      ∃ tx', CbvWritten e.params w.chan 0 tx'
        ∧ expire e .repeatMsg w = .next
          ⟨{ w.chan with state := .normalOperation, blrActive := w.chan.cfg.blrEn, tx := tx'
                         tm := if w.chan.rsiEnabled then { w.chan.tm with remoteSleep := ⟨true, w.chan.cfg.tRsi⟩ }
                               else w.chan.tm },
            w.events ++ scEvents e.glob e.idx .repeatMessage .normalOperation, w.back⟩)
    ∧ (w.chan.requested = false →
      ∃ tx', (w.chan.cfg.ndEn = true → CbvWritten e.params w.chan 0 tx') ∧ (w.chan.cfg.ndEn = false → tx' = w.chan.tx)
        ∧ expire e .repeatMsg w = .next
          ⟨{ w.chan with state := .readySleep, txEnabled := false, tx := tx' },
            w.events ++ scEvents e.glob e.idx .repeatMessage .readySleep, w.back⟩)

/-- R223, R224: the wait-bus-sleep handler takes Prepare-Bus-Sleep to Bus-Sleep, the remote-sleep handler indicates once in
Normal-Operation while enabled, and neither does anything elsewhere. -/
def Obligations.SleepHandlersActByState : Prop :=
  ∀ (e : Env) (w : Work),
    (w.chan.state = .prepareBusSleep → expire e .waitBusSleep w = .next
      ⟨{ w.chan with mode := .busSleep, state := .busSleep },
        w.events ++ .busSleep e.idx :: scEvents e.glob e.idx .prepareBusSleep .busSleep, w.back⟩)
    ∧ (w.chan.state ≠ .prepareBusSleep → expire e .waitBusSleep w = .next w)
    ∧ (w.chan.state = .normalOperation → w.chan.rsiEnabled = true → w.chan.rsiIndicated = false →
        expire e .remoteSleep w = .next ⟨{ w.chan with rsiIndicated := true }, w.events ++ [.rsiInd e.idx], w.back⟩)
    ∧ (¬ (w.chan.state = .normalOperation ∧ w.chan.rsiEnabled = true ∧ w.chan.rsiIndicated = false) →
        expire e .remoteSleep w = .next w)

/-! ### TICK -/

/-- R200, R104: a TICK in which no running timer is due takes the tick period off every running timer's countdown, keeps the
stopped ones, and does nothing else; a channel with all timers stopped is not changed (R204). -/
def Obligations.TickWithNothingDueOnlyCountsDown : Prop :=
  ∀ s : State, s.params.wf = true → (∀ c ∈ s.chans, c.state ≠ .uninit) →
    (∀ c ∈ s.chans, ∀ T, (getTimer c T).run = true → s.glob.tickPeriod.toNat < (getTimer c T).cnt.toNat) →
    let down : Timer → Timer := fun t => if t.run then ⟨true, t.cnt - s.glob.tickPeriod⟩ else t
    exec .tick s = .next { s with
      chans := s.chans.map fun c => { c with
        tm := ⟨down c.tm.timeout, down c.tm.msgCycle, down c.tm.repeatMsg, down c.tm.waitBusSleep, down c.tm.remoteSleep⟩ }
      rsp := some ⟨.ok, 0, [], []⟩ }

/-- R200, R216, R260: TICK on an initialised block whose channels are ready, with one bus answer a channel, completes with
OK; it changes the channels' records and the response only, and each channel's configuration stays. -/
def Obligations.TickCompletesOnReadyChannels : Prop :=
  ∀ s : State, s.params.wf = true → (∀ c ∈ s.chans, c.state ≠ .uninit) →
    (∀ c ∈ s.chans, ReadyChannel s.params c) → s.nCh ≤ s.operands.back.length →
    ∃ chans' events, exec .tick s = .next { s with chans := chans', rsp := some ⟨.ok, 0, [], events⟩ }
      ∧ chans'.map (·.cfg) = s.chans.map (·.cfg) ∧ txCount events ≤ s.nCh

/-- R203: with the order R7 gives, a channel in Repeat-Message whose timeout and repeat-message timers are both due ends the
TICK in Normal-Operation or Ready-Sleep by `requested`, never in Prepare-Bus-Sleep, with the timeout timer re-armed. -/
def Obligations.DoubleExpiryInRepeatMessageStaysAwake : Prop :=
  ∀ (e : Env) (w w' : Work), e.params.tickOrder = Config.tickOrder → w.chan.state = .repeatMessage →
    w.chan.tm.timeout.run = true → w.chan.tm.timeout.cnt.toNat ≤ e.glob.tickPeriod.toNat →
    w.chan.tm.repeatMsg.run = true → w.chan.tm.repeatMsg.cnt.toNat ≤ e.glob.tickPeriod.toNat →
    tickTimers e e.params.tickOrder w = .next w' →
      w'.chan.state = (if w.chan.requested then .normalOperation else .readySleep)
        ∧ w'.chan.mode = w.chan.mode ∧ w'.chan.tm.timeout = ⟨true, w.chan.cfg.tTimeout⟩

/-- R250(a): with the order R7 gives, a Ready-Sleep channel whose timeout timer is due and whose wait-bus-sleep time is at
most one tick period goes through Prepare-Bus-Sleep to Bus-Sleep in one TICK, with the four events in order. -/
def Obligations.ReadySleepCanReachBusSleepInOneTick : Prop :=
  ∀ (e : Env) (w : Work) (v : Byte), e.params.tickOrder = Config.tickOrder → w.chan.state = .readySleep →
    w.chan.tm.timeout.run = true → w.chan.tm.timeout.cnt.toNat ≤ e.glob.tickPeriod.toNat →
    w.chan.cfg.tWbs.toNat ≤ e.glob.tickPeriod.toNat → CbvReadable e.params w.chan v →
    ∃ w', tickTimers e e.params.tickOrder w = .next w'
      ∧ w'.chan.mode = .busSleep ∧ w'.chan.state = .busSleep ∧ w'.back = w.back
      ∧ w'.events = w.events ++ .prepareBusSleep e.idx :: scEvents e.glob e.idx .readySleep .prepareBusSleep
          ++ .busSleep e.idx :: scEvents e.glob e.idx .prepareBusSleep .busSleep

/-! ### Invariants -/

/-- R13: the legal pairs are exactly the six listed, reset has a legal pair in every channel, and every step keeps both
invariants of the pair. -/
def Obligations.ModeAndStateStayALegalPair : Prop :=
  (∀ (m : Mode) (st : NmState), legalPair m st = true ↔
    (m, st) ∈ [(Mode.busSleep, NmState.uninit), (.busSleep, .busSleep), (.prepareBusSleep, .prepareBusSleep),
      (.network, .repeatMessage), (.network, .normalOperation), (.network, .readySleep)])
  ∧ PairInv State.reset
  ∧ (∀ s t : State, PairInv s → step s = .next t → PairInv t)

/-- The model's memory keeps its canonical form: every step, from every state (notes/assumptions/2.md, 3.md). -/
def Obligations.BuffersKeepTheirCanonicalForm : Prop :=
  ∀ s t : State, MemInv s → step s = .next t → MemInv t

/-- R15, R226, R230: `tx_enabled = 1` implies `g.passive = 0` after every step if before, and a passive block that has this
never makes a transmit request. -/
def Obligations.PassiveBlockNeverTransmits : Prop :=
  (∀ s t : State, PassiveInv s → step s = .next t → PassiveInv t)
  ∧ (∀ (i : Instr) (s t : State) (r : Response), PassiveInv s → s.glob.passive = true → exec i s = .next t →
      t.rsp = some r → txCount r.events = 0)

/-- R222: the repeat-message timer runs in Repeat-Message only, after every step if before, from legal pairs. -/
def Obligations.RepeatTimerRunsInRepeatMessageOnly : Prop :=
  ∀ s t : State, PairInv s → RepeatTimerInv s → step s = .next t → RepeatTimerInv t

/-- R13, R15, R16, R36, R40, R52, R145, R222: every step keeps the whole invariant, from every state that has it: legal
pairs, legal configurations, buffers with their values, the control-bit-vector with named bits only, the node identifier in
its place. -/
def Obligations.EveryStepKeepsTheInvariant : Prop := ∀ s t : State, Inv s → step s = .next t → Inv t

/-- The invariant holds after reset, for every number of channels from 1 to 256. -/
def Obligations.ResetHasTheInvariant : Prop :=
  Inv State.reset ∧ ∀ (n : Nat) (p : Params) (port : List Input), 1 ≤ n → n ≤ 256 → p.wf = true →
    Inv (State.resetWith p n port)

/-- R216, R57: nothing is fatal. From a state with the invariant no step faults, and a step is refused only for INIT with an
illegal record (93 U1), for INIT with a number of channel records that is not `N_CH` (the model's own refusal, DEDUCED,
notes/assumptions/12.md), for SETUD or RXIND with a stream of the wrong length, and for TICK or BUSSYNC with too few bus
answers (93 U8). -/
def Obligations.NothingIsFatal : Prop :=
  ∀ s : State, Inv s →
    (∀ f, step s ≠ .fault f)
    ∧ (∀ r, step s = .refused r → ∃ c rest i, s.port = .command c :: rest ∧ decode c.word = .ok i
        ∧ ((r = .illegalConfiguration ∧ i = .init ∧ legalCfg s.params c.operands.cfg = false)
          ∨ (r = .configurationShape ∧ i = .init ∧ c.operands.cfg.chans.length ≠ s.nCh)
          ∨ (r = .streamLength ∧ ¬ StreamFits { s with operands := c.operands } i)
          ∨ (r = .noBusAnswer ∧ i = .tick ∧ c.operands.back.length < s.nCh)
          ∨ (r = .noBusAnswer ∧ (∃ ch, i = .bussync ch) ∧ c.operands.back = [])))

/-! ### Whole-machine rules -/

/-- R10, R35: a command addressed to one channel leaves every other channel's record, every configuration register and
every input as they were. -/
def Obligations.ChannelsAreIsolated : Prop :=
  ∀ (i : Instr) (ch : ChIdx) (s t : State), i.channel? = some ch → exec i s = .next t →
    t.glob = s.glob ∧ t.params = s.params ∧ t.port = s.port ∧ t.operands = s.operands
      ∧ t.chans.map (·.cfg) = s.chans.map (·.cfg)
      ∧ ∀ k, k ≠ ch.toNat → t.chans[k]? = s.chans[k]?

/-- R61: two commands addressed to different channels can be exchanged: the channels end alike and each command gets the
same response. -/
def Obligations.CommandsOnDifferentChannelsCommute : Prop :=
  ∀ (i j : Instr) (a b : ChIdx) (s t u : State) (oi oj : Operands), i.channel? = some a → j.channel? = some b → a ≠ b →
    exec i { s with operands := oi } = .next t → exec j { t with operands := oj } = .next u →
    ∃ t' u', exec j { s with operands := oj } = .next t' ∧ exec i { t' with operands := oi } = .next u'
      ∧ u'.chans = u.chans ∧ t'.rsp = u.rsp ∧ u'.rsp = t.rsp

/-- R19: `pn_confirmed` is written 1 by PNCONF and 0 by INIT and by nothing else, and no rule reads it: two states that
differ in it alone step to states that differ in it alone, with the same response. -/
def Obligations.PnConfirmedInfluencesNothing : Prop :=
  (∀ s s' : State, forgetPn s = forgetPn s' → AgreeUpTo forgetPn (step s) (step s'))
  ∧ (∀ (i : Instr) (s t : State) (k : Nat) (c c' : Channel), exec i s = .next t → s.chans[k]? = some c →
      t.chans[k]? = some c' → c'.pnConfirmed ≠ c.pnConfirmed →
      (i = .init ∧ c'.pnConfirmed = false) ∨ (∃ ch : ChIdx, i = .pnconf ch ∧ ch.toNat = k ∧ c'.pnConfirmed = true))
  ∧ (∀ (s t : State) (c : Channel), exec .init s = .next t → c ∈ t.chans → c.pnConfirmed = false)
  ∧ (∀ (s t : State) (ch : ChIdx) (c : Channel) (r : Response), exec (.pnconf ch) s = .next t → t.rsp = some r →
      r.code = .ok → t.chans[ch.toNat]? = some c → c.pnConfirmed = true)

/-- R121: the state-change notification is a pure side-channel: two states that differ in `g.state_change_ind` and in the
notifications already given step to states that differ in these alone. -/
def Obligations.NotificationIsAPureSideChannel : Prop :=
  ∀ s s' : State, forgetNotification s = forgetNotification s' → AgreeUpTo forgetNotification (step s) (step s')

/-- R35, 93 U4: before INIT no rule reads what hardware reset leaves unspecified: two blocks in Uninit that differ in the
configuration, TX and RX alone step to states that differ in these alone, with the same response. -/
def Obligations.UnspecifiedRegistersAreNotReadBeforeInit : Prop :=
  ∀ s s' : State, (∀ c ∈ s.chans, c.state = .uninit) → forgetUnspecified s = forgetUnspecified s' →
    AgreeUpTo forgetUnspecified (step s) (step s')

/-- R14: `requested` is set by NETREQ and cleared by NETREL and INIT, and nothing else writes it. -/
def Obligations.RequestedIsWrittenByRequestAndRelease : Prop :=
  ∀ (i : Instr) (s t : State) (k : Nat) (c c' : Channel), exec i s = .next t → s.chans[k]? = some c →
    t.chans[k]? = some c' → c'.requested ≠ c.requested →
    (i = .init ∧ c'.requested = false)
      ∨ (∃ ch : ChIdx, i = .netreq ch ∧ ch.toNat = k ∧ c'.requested = true)
      ∨ (∃ ch : ChIdx, i = .netrel ch ∧ ch.toNat = k ∧ c'.requested = false)

/-- R138, R139: from legal pairs, and with the tick order R7 gives, a command moves a channel's state only as the rules
list: nothing leaves Bus-Sleep except NETREQ, PSTART and DEINIT, nothing enters it except INIT and TICK. -/
def Obligations.StatesMoveOnlyAsListed : Prop :=
  ∀ (i : Instr) (s t : State) (k : Nat) (c c' : Channel), PairInv s → s.params.tickOrder = Config.tickOrder →
    exec i s = .next t → s.chans[k]? = some c → t.chans[k]? = some c' → c'.state ≠ c.state →
    MoveAllowed i c.state c'.state ∧ (∀ ch, i.channel? = some ch → ch.toNat = k)
end

