-- ==== Sys2Proof/Laws/Memory.lean ====
section
/-! SUPPORT. What the byte operations do: a byte written is read back, every other byte is untouched, and the canonical form
is kept. -/

namespace Sys2Proof.Machine

open Sys2Proof

/-- A byte after a write: the byte written at its address, as before elsewhere. -/
@[simp] theorem readCell_writeCell (m : Memory) (a b : Nat) (v : Byte) :
    readCell (writeCell m a v) b = if b = a then some v else readCell m b := by
  induction m with
  | nil => simp [writeCell, readCell]
  | cons x m ih =>
    obtain ⟨c, w⟩ := x
    by_cases hlt : a < c
    · simp [writeCell, readCell, hlt]
    · by_cases heq : a = c
      · subst heq
        by_cases hb : b = a <;> simp [writeCell, readCell, hb]
      · by_cases hb : b = c
        · have hba : b ≠ a := fun h => heq (h.symm.trans hb)
          simp [writeCell, readCell, hlt, heq, hb, Ne.symm heq]
        · simp [writeCell, readCell, hlt, heq, hb, ih]

/-- The addresses of a memory after a write: those it had and the one written. -/
theorem mem_writeCell_addr (m : Memory) (a b : Nat) (v : Byte) :
    b ∈ (writeCell m a v).map Prod.fst ↔ b = a ∨ b ∈ m.map Prod.fst := by
  induction m with
  | nil => simp [writeCell]
  | cons x m ih =>
    obtain ⟨c, w⟩ := x
    by_cases hlt : a < c
    · simp [writeCell, hlt]
    · by_cases heq : a = c
      · subst heq; simp [writeCell]
      · rw [writeCell, if_neg hlt, if_neg heq, List.map_cons, List.mem_cons, ih, List.map_cons, List.mem_cons]
        tauto

/-- A write keeps the canonical form. -/
theorem writeCell_wf {m : Memory} (h : Memory.wf m) (a : Nat) (v : Byte) : Memory.wf (writeCell m a v) := by
  induction m with
  | nil => simp [writeCell, Memory.wf]
  | cons x m ih =>
    obtain ⟨c, w⟩ := x
    have hc : (∀ b ∈ m.map Prod.fst, c < b) ∧ Memory.wf m := List.pairwise_cons.mp h
    by_cases hlt : a < c
    · rw [writeCell, if_pos hlt]
      refine List.pairwise_cons.mpr ⟨fun b hb => ?_, h⟩
      rcases List.mem_cons.mp hb with rfl | hb
      · exact hlt
      · exact hlt.trans (hc.1 b hb)
    · by_cases heq : a = c
      · subst heq
        rw [writeCell, if_neg hlt, if_pos rfl]
        exact List.pairwise_cons.mpr hc
      · rw [writeCell, if_neg hlt, if_neg heq]
        refine List.pairwise_cons.mpr ⟨fun b hb => ?_, ih hc.2⟩
        rcases (mem_writeCell_addr m a b v).mp hb with rfl | hb
        · exact lt_of_le_of_ne (not_lt.mp hlt) (Ne.symm heq)
        · exact hc.1 b hb

/-- Writing several bytes keeps the canonical form. -/
theorem writeCells_wf {m : Memory} (h : Memory.wf m) (a : Nat) (vs : List Byte) : Memory.wf (writeCells m a vs) := by
  induction vs generalizing m a with
  | nil => exact h
  | cons v vs ih => exact ih (writeCell_wf h a v) (a + 1)

/-- A byte after writing `vs` from `a` on: the byte of `vs` inside the range, as before outside it. -/
@[simp] theorem readCell_writeCells (m : Memory) (a b : Nat) (vs : List Byte) :
    readCell (writeCells m a vs) b = if a ≤ b ∧ b < a + vs.length then vs[b - a]? else readCell m b := by
  induction vs generalizing m a with
  | nil => rw [if_neg (by simp only [List.length_nil]; omega)]; rfl
  | cons v vs ih =>
    rw [writeCells, ih, readCell_writeCell]
    by_cases hb : b = a
    · subst hb; simp
    · by_cases hin : a + 1 ≤ b ∧ b < a + 1 + vs.length
      · have h2 : a ≤ b ∧ b < a + (v :: vs).length := ⟨by omega, by simp only [List.length_cons]; omega⟩
        rw [if_pos hin, if_pos h2, show b - a = (b - (a + 1)) + 1 by omega, List.getElem?_cons_succ]
      · have h2 : ¬ (a ≤ b ∧ b < a + (v :: vs).length) := by simp only [List.length_cons]; omega
        rw [if_neg hin, if_neg h2, if_neg hb]

/-- What `readCells` answers: as many bytes as asked, each the byte at its address. -/
theorem readCells_eq_some {m : Memory} {a n : Nat} {f : List Byte} :
    readCells m a n = some f ↔ f.length = n ∧ ∀ k, k < n → readCell m (a + k) = f[k]? := by
  induction n generalizing a f with
  | zero =>
    constructor
    · intro h
      simp only [readCells, Option.some.injEq] at h
      subst h
      exact ⟨rfl, fun k hk => absurd hk (Nat.not_lt_zero k)⟩
    · rintro ⟨h, -⟩
      rw [List.length_eq_zero_iff] at h
      subst h
      rfl
  | succ n ih =>
    constructor
    · intro h
      rw [readCells] at h
      split at h
      · rename_i b bs hb hbs
        obtain ⟨hl, hk⟩ := ih.mp hbs
        simp only [Option.some.injEq] at h
        subst h
        refine ⟨by rw [List.length_cons, hl], fun k hlt => ?_⟩
        cases k with
        | zero => simpa using hb
        | succ k =>
          rw [List.getElem?_cons_succ, ← hk k (by omega)]
          congr 1
          omega
      · cases h
    · rintro ⟨hl, hk⟩
      cases f with
      | nil => simp at hl
      | cons b bs =>
        have h0 : readCell m a = some b := by simpa using hk 0 (by omega)
        have hs : readCells m (a + 1) n = some bs := by
          refine ih.mpr ⟨by simpa using hl, fun k hlt => ?_⟩
          have := hk (k + 1) (by omega)
          rw [List.getElem?_cons_succ] at this
          rw [← this]
          congr 1
          omega
        rw [readCells, h0, hs]

/-- `readCells` answers as soon as every byte asked for has a value. -/
theorem readCells_isSome {m : Memory} {a n : Nat} (h : ∀ k, k < n → (readCell m (a + k)).isSome) :
    ∃ f, readCells m a n = some f := by
  induction n generalizing a with
  | zero => exact ⟨[], rfl⟩
  | succ n ih =>
    obtain ⟨b, hb⟩ := Option.isSome_iff_exists.mp (h 0 (by omega))
    obtain ⟨bs, hbs⟩ := ih (a := a + 1) fun k hk => by
      have := h (k + 1) (by omega)
      rwa [show a + (k + 1) = a + 1 + k by omega] at this
    exact ⟨b :: bs, by rw [readCells, show readCell m a = some b from hb, hbs]⟩

/-- An address below every cell has no value. -/
theorem readCell_of_lt_all {m : Memory} {a : Nat} (h : ∀ b ∈ m.map Prod.fst, a < b) : readCell m a = none := by
  induction m with
  | nil => rfl
  | cons x m ih =>
    obtain ⟨b, v⟩ := x
    have hb : a < b := h b (by simp)
    rw [readCell, if_neg (by omega)]
    exact ih fun k hk => h k (by simp [hk])

/-- Two memories in canonical form that read alike are equal: equal contents are equal data. -/
theorem memory_ext {m m' : Memory} (h : Memory.wf m) (h' : Memory.wf m')
    (hr : ∀ a, readCell m a = readCell m' a) : m = m' := by
  induction m generalizing m' with
  | nil =>
    cases m' with
    | nil => rfl
    | cons y m' => have := hr y.1; simp [readCell] at this
  | cons x m ih =>
    obtain ⟨a, v⟩ := x
    cases m' with
    | nil => have := hr a; simp [readCell] at this
    | cons y m' =>
      obtain ⟨b, w⟩ := y
      have hc : (∀ k ∈ m.map Prod.fst, a < k) ∧ Memory.wf m := List.pairwise_cons.mp h
      have hc' : (∀ k ∈ m'.map Prod.fst, b < k) ∧ Memory.wf m' := List.pairwise_cons.mp h'
      have hab : a = b := by
        rcases Nat.lt_trichotomy a b with hlt | heq | hlt
        · have h1 := hr a
          rw [readCell_of_lt_all (m := (b, w) :: m') (a := a) fun k hk => ?_] at h1
          · simp [readCell] at h1
          · rcases List.mem_cons.mp hk with rfl | hk
            · exact hlt
            · exact hlt.trans (hc'.1 k hk)
        · exact heq
        · have h1 := hr b
          rw [readCell_of_lt_all (m := (a, v) :: m) (a := b) fun k hk => ?_] at h1
          · simp [readCell] at h1
          · rcases List.mem_cons.mp hk with rfl | hk
            · exact hlt
            · exact hlt.trans (hc.1 k hk)
      subst hab
      have hv : v = w := by have := hr a; simpa [readCell] using this
      subst hv
      rw [ih hc.2 hc'.2 fun k => ?_]
      by_cases hk : k = a
      · subst hk
        rw [readCell_of_lt_all hc.1, readCell_of_lt_all hc'.1]
      · have := hr k
        simpa [readCell, hk] using this

end Sys2Proof.Machine
end

