-- ==== Sys2Proof/Laws/State.lean ====
section
/-! SUPPORT. One lemma per field per update of the state, of a channel and of a command in progress, so that no later proof
unfolds a record update. -/

namespace Sys2Proof.Machine

open Sys2Proof

/-! ### State -/

@[simp] theorem answer_params (s : State) (k : ResultCode) : (answer s k).params = s.params := rfl
@[simp] theorem answer_glob (s : State) (k : ResultCode) : (answer s k).glob = s.glob := rfl
@[simp] theorem answer_chans (s : State) (k : ResultCode) : (answer s k).chans = s.chans := rfl
@[simp] theorem answer_operands (s : State) (k : ResultCode) : (answer s k).operands = s.operands := rfl
@[simp] theorem answer_rsp (s : State) (k : ResultCode) : (answer s k).rsp = some ⟨k, 0, [], []⟩ := rfl
@[simp] theorem answer_port (s : State) (k : ResultCode) : (answer s k).port = s.port := rfl
@[simp] theorem commit_params (s : State) (ch : ChIdx) (a : Answer) : (commit s ch a).params = s.params := rfl
@[simp] theorem commit_glob (s : State) (ch : ChIdx) (a : Answer) : (commit s ch a).glob = s.glob := rfl
@[simp] theorem commit_chans (s : State) (ch : ChIdx) (a : Answer) : (commit s ch a).chans = s.chans.set ch.toNat a.work.chan := rfl
@[simp] theorem commit_operands (s : State) (ch : ChIdx) (a : Answer) : (commit s ch a).operands = s.operands := rfl
@[simp] theorem commit_rsp (s : State) (ch : ChIdx) (a : Answer) : (commit s ch a).rsp = some ⟨a.code, a.val, a.dout, a.work.events⟩ := rfl
@[simp] theorem commit_port (s : State) (ch : ChIdx) (a : Answer) : (commit s ch a).port = s.port := rfl
@[simp] theorem accept_params (s : State) (c : Command) (rest : List Input) : (accept s c rest).params = s.params := rfl
@[simp] theorem accept_glob (s : State) (c : Command) (rest : List Input) : (accept s c rest).glob = s.glob := rfl
@[simp] theorem accept_chans (s : State) (c : Command) (rest : List Input) : (accept s c rest).chans = s.chans := rfl
@[simp] theorem accept_operands (s : State) (c : Command) (rest : List Input) : (accept s c rest).operands = c.operands := rfl
@[simp] theorem accept_rsp (s : State) (c : Command) (rest : List Input) : (accept s c rest).rsp = s.rsp := rfl
@[simp] theorem accept_port (s : State) (c : Command) (rest : List Input) : (accept s c rest).port = rest := rfl
@[simp] theorem hardReset_params (s : State) (rest : List Input) : (hardReset s rest).params = s.params := rfl
@[simp] theorem hardReset_glob (s : State) (rest : List Input) : (hardReset s rest).glob = GlobCfg.zero := rfl
@[simp] theorem hardReset_chans (s : State) (rest : List Input) : (hardReset s rest).chans = List.replicate s.nCh Channel.reset := rfl
@[simp] theorem hardReset_operands (s : State) (rest : List Input) : (hardReset s rest).operands = Operands.empty := rfl
@[simp] theorem hardReset_rsp (s : State) (rest : List Input) : (hardReset s rest).rsp = none := rfl
@[simp] theorem hardReset_port (s : State) (rest : List Input) : (hardReset s rest).port = rest := rfl

/-! ### A command in progress -/

@[simp] theorem emit_chan (e : Event) (w : Work) : (emit e w).chan = w.chan := rfl
@[simp] theorem emit_events (e : Event) (w : Work) : (emit e w).events = w.events ++ [e] := rfl
@[simp] theorem emit_back (e : Event) (w : Work) : (emit e w).back = w.back := rfl
@[simp] theorem withChan_chan (w : Work) (c : Channel) : (withChan w c).chan = c := rfl
@[simp] theorem withChan_events (w : Work) (c : Channel) : (withChan w c).events = w.events := rfl
@[simp] theorem withChan_back (w : Work) (c : Channel) : (withChan w c).back = w.back := rfl
@[simp] theorem startWork_chan (s : State) (c : Channel) : (startWork s c).chan = c := rfl
@[simp] theorem startWork_events (s : State) (c : Channel) : (startWork s c).events = [] := rfl
@[simp] theorem startWork_back (s : State) (c : Channel) : (startWork s c).back = s.operands.back := rfl
@[simp] theorem envOf_params (s : State) (ch : ChIdx) : (envOf s ch).params = s.params := rfl
@[simp] theorem envOf_glob (s : State) (ch : ChIdx) : (envOf s ch).glob = s.glob := rfl
@[simp] theorem envOf_idx (s : State) (ch : ChIdx) : (envOf s ch).idx = ch := rfl

/-! ### Timers of a channel -/

@[simp] theorem setTimer_cfg (c : Channel) (T : TimerSel) (t : Timer) : (setTimer c T t).cfg = c.cfg := rfl
@[simp] theorem setTimer_mode (c : Channel) (T : TimerSel) (t : Timer) : (setTimer c T t).mode = c.mode := rfl
@[simp] theorem setTimer_state (c : Channel) (T : TimerSel) (t : Timer) : (setTimer c T t).state = c.state := rfl
@[simp] theorem setTimer_requested (c : Channel) (T : TimerSel) (t : Timer) : (setTimer c T t).requested = c.requested := rfl
@[simp] theorem setTimer_txEnabled (c : Channel) (T : TimerSel) (t : Timer) : (setTimer c T t).txEnabled = c.txEnabled := rfl
@[simp] theorem setTimer_rxLast (c : Channel) (T : TimerSel) (t : Timer) : (setTimer c T t).rxLast = c.rxLast := rfl
@[simp] theorem setTimer_immTxCnt (c : Channel) (T : TimerSel) (t : Timer) : (setTimer c T t).immTxCnt = c.immTxCnt := rfl
@[simp] theorem setTimer_blrActive (c : Channel) (T : TimerSel) (t : Timer) : (setTimer c T t).blrActive = c.blrActive := rfl
@[simp] theorem setTimer_rsiIndicated (c : Channel) (T : TimerSel) (t : Timer) : (setTimer c T t).rsiIndicated = c.rsiIndicated := rfl
@[simp] theorem setTimer_rsiEnabled (c : Channel) (T : TimerSel) (t : Timer) : (setTimer c T t).rsiEnabled = c.rsiEnabled := rfl
@[simp] theorem setTimer_pnConfirmed (c : Channel) (T : TimerSel) (t : Timer) : (setTimer c T t).pnConfirmed = c.pnConfirmed := rfl
@[simp] theorem setTimer_tx (c : Channel) (T : TimerSel) (t : Timer) : (setTimer c T t).tx = c.tx := rfl
@[simp] theorem setTimer_rx (c : Channel) (T : TimerSel) (t : Timer) : (setTimer c T t).rx = c.rx := rfl
@[simp] theorem tStart_cfg (c : Channel) (T : TimerSel) (d : Dur) : (tStart c T d).cfg = c.cfg := rfl
@[simp] theorem tStart_mode (c : Channel) (T : TimerSel) (d : Dur) : (tStart c T d).mode = c.mode := rfl
@[simp] theorem tStart_state (c : Channel) (T : TimerSel) (d : Dur) : (tStart c T d).state = c.state := rfl
@[simp] theorem tStart_requested (c : Channel) (T : TimerSel) (d : Dur) : (tStart c T d).requested = c.requested := rfl
@[simp] theorem tStart_txEnabled (c : Channel) (T : TimerSel) (d : Dur) : (tStart c T d).txEnabled = c.txEnabled := rfl
@[simp] theorem tStart_rxLast (c : Channel) (T : TimerSel) (d : Dur) : (tStart c T d).rxLast = c.rxLast := rfl
@[simp] theorem tStart_immTxCnt (c : Channel) (T : TimerSel) (d : Dur) : (tStart c T d).immTxCnt = c.immTxCnt := rfl
@[simp] theorem tStart_blrActive (c : Channel) (T : TimerSel) (d : Dur) : (tStart c T d).blrActive = c.blrActive := rfl
@[simp] theorem tStart_rsiIndicated (c : Channel) (T : TimerSel) (d : Dur) : (tStart c T d).rsiIndicated = c.rsiIndicated := rfl
@[simp] theorem tStart_rsiEnabled (c : Channel) (T : TimerSel) (d : Dur) : (tStart c T d).rsiEnabled = c.rsiEnabled := rfl
@[simp] theorem tStart_pnConfirmed (c : Channel) (T : TimerSel) (d : Dur) : (tStart c T d).pnConfirmed = c.pnConfirmed := rfl
@[simp] theorem tStart_tx (c : Channel) (T : TimerSel) (d : Dur) : (tStart c T d).tx = c.tx := rfl
@[simp] theorem tStart_rx (c : Channel) (T : TimerSel) (d : Dur) : (tStart c T d).rx = c.rx := rfl
@[simp] theorem tResume_cfg (c : Channel) (T : TimerSel) : (tResume c T).cfg = c.cfg := rfl
@[simp] theorem tResume_mode (c : Channel) (T : TimerSel) : (tResume c T).mode = c.mode := rfl
@[simp] theorem tResume_state (c : Channel) (T : TimerSel) : (tResume c T).state = c.state := rfl
@[simp] theorem tResume_requested (c : Channel) (T : TimerSel) : (tResume c T).requested = c.requested := rfl
@[simp] theorem tResume_txEnabled (c : Channel) (T : TimerSel) : (tResume c T).txEnabled = c.txEnabled := rfl
@[simp] theorem tResume_rxLast (c : Channel) (T : TimerSel) : (tResume c T).rxLast = c.rxLast := rfl
@[simp] theorem tResume_immTxCnt (c : Channel) (T : TimerSel) : (tResume c T).immTxCnt = c.immTxCnt := rfl
@[simp] theorem tResume_blrActive (c : Channel) (T : TimerSel) : (tResume c T).blrActive = c.blrActive := rfl
@[simp] theorem tResume_rsiIndicated (c : Channel) (T : TimerSel) : (tResume c T).rsiIndicated = c.rsiIndicated := rfl
@[simp] theorem tResume_rsiEnabled (c : Channel) (T : TimerSel) : (tResume c T).rsiEnabled = c.rsiEnabled := rfl
@[simp] theorem tResume_pnConfirmed (c : Channel) (T : TimerSel) : (tResume c T).pnConfirmed = c.pnConfirmed := rfl
@[simp] theorem tResume_tx (c : Channel) (T : TimerSel) : (tResume c T).tx = c.tx := rfl
@[simp] theorem tResume_rx (c : Channel) (T : TimerSel) : (tResume c T).rx = c.rx := rfl
@[simp] theorem tStop_cfg (c : Channel) (T : TimerSel) : (tStop c T).cfg = c.cfg := rfl
@[simp] theorem tStop_mode (c : Channel) (T : TimerSel) : (tStop c T).mode = c.mode := rfl
@[simp] theorem tStop_state (c : Channel) (T : TimerSel) : (tStop c T).state = c.state := rfl
@[simp] theorem tStop_requested (c : Channel) (T : TimerSel) : (tStop c T).requested = c.requested := rfl
@[simp] theorem tStop_txEnabled (c : Channel) (T : TimerSel) : (tStop c T).txEnabled = c.txEnabled := rfl
@[simp] theorem tStop_rxLast (c : Channel) (T : TimerSel) : (tStop c T).rxLast = c.rxLast := rfl
@[simp] theorem tStop_immTxCnt (c : Channel) (T : TimerSel) : (tStop c T).immTxCnt = c.immTxCnt := rfl
@[simp] theorem tStop_blrActive (c : Channel) (T : TimerSel) : (tStop c T).blrActive = c.blrActive := rfl
@[simp] theorem tStop_rsiIndicated (c : Channel) (T : TimerSel) : (tStop c T).rsiIndicated = c.rsiIndicated := rfl
@[simp] theorem tStop_rsiEnabled (c : Channel) (T : TimerSel) : (tStop c T).rsiEnabled = c.rsiEnabled := rfl
@[simp] theorem tStop_pnConfirmed (c : Channel) (T : TimerSel) : (tStop c T).pnConfirmed = c.pnConfirmed := rfl
@[simp] theorem tStop_tx (c : Channel) (T : TimerSel) : (tStop c T).tx = c.tx := rfl
@[simp] theorem tStop_rx (c : Channel) (T : TimerSel) : (tStop c T).rx = c.rx := rfl
@[simp] theorem tReset_cfg (c : Channel) (T : TimerSel) (d : Dur) : (tReset c T d).cfg = c.cfg := rfl
@[simp] theorem tReset_mode (c : Channel) (T : TimerSel) (d : Dur) : (tReset c T d).mode = c.mode := rfl
@[simp] theorem tReset_state (c : Channel) (T : TimerSel) (d : Dur) : (tReset c T d).state = c.state := rfl
@[simp] theorem tReset_requested (c : Channel) (T : TimerSel) (d : Dur) : (tReset c T d).requested = c.requested := rfl
@[simp] theorem tReset_txEnabled (c : Channel) (T : TimerSel) (d : Dur) : (tReset c T d).txEnabled = c.txEnabled := rfl
@[simp] theorem tReset_rxLast (c : Channel) (T : TimerSel) (d : Dur) : (tReset c T d).rxLast = c.rxLast := rfl
@[simp] theorem tReset_immTxCnt (c : Channel) (T : TimerSel) (d : Dur) : (tReset c T d).immTxCnt = c.immTxCnt := rfl
@[simp] theorem tReset_blrActive (c : Channel) (T : TimerSel) (d : Dur) : (tReset c T d).blrActive = c.blrActive := rfl
@[simp] theorem tReset_rsiIndicated (c : Channel) (T : TimerSel) (d : Dur) : (tReset c T d).rsiIndicated = c.rsiIndicated := rfl
@[simp] theorem tReset_rsiEnabled (c : Channel) (T : TimerSel) (d : Dur) : (tReset c T d).rsiEnabled = c.rsiEnabled := rfl
@[simp] theorem tReset_pnConfirmed (c : Channel) (T : TimerSel) (d : Dur) : (tReset c T d).pnConfirmed = c.pnConfirmed := rfl
@[simp] theorem tReset_tx (c : Channel) (T : TimerSel) (d : Dur) : (tReset c T d).tx = c.tx := rfl
@[simp] theorem tReset_rx (c : Channel) (T : TimerSel) (d : Dur) : (tReset c T d).rx = c.rx := rfl
@[simp] theorem expiryEntry_cfg (c : Channel) (T : TimerSel) : (expiryEntry c T).cfg = c.cfg := rfl
@[simp] theorem expiryEntry_mode (c : Channel) (T : TimerSel) : (expiryEntry c T).mode = c.mode := rfl
@[simp] theorem expiryEntry_state (c : Channel) (T : TimerSel) : (expiryEntry c T).state = c.state := rfl
@[simp] theorem expiryEntry_requested (c : Channel) (T : TimerSel) : (expiryEntry c T).requested = c.requested := rfl
@[simp] theorem expiryEntry_txEnabled (c : Channel) (T : TimerSel) : (expiryEntry c T).txEnabled = c.txEnabled := rfl
@[simp] theorem expiryEntry_rxLast (c : Channel) (T : TimerSel) : (expiryEntry c T).rxLast = c.rxLast := rfl
@[simp] theorem expiryEntry_immTxCnt (c : Channel) (T : TimerSel) : (expiryEntry c T).immTxCnt = c.immTxCnt := rfl
@[simp] theorem expiryEntry_blrActive (c : Channel) (T : TimerSel) : (expiryEntry c T).blrActive = c.blrActive := rfl
@[simp] theorem expiryEntry_rsiIndicated (c : Channel) (T : TimerSel) : (expiryEntry c T).rsiIndicated = c.rsiIndicated := rfl
@[simp] theorem expiryEntry_rsiEnabled (c : Channel) (T : TimerSel) : (expiryEntry c T).rsiEnabled = c.rsiEnabled := rfl
@[simp] theorem expiryEntry_pnConfirmed (c : Channel) (T : TimerSel) : (expiryEntry c T).pnConfirmed = c.pnConfirmed := rfl
@[simp] theorem expiryEntry_tx (c : Channel) (T : TimerSel) : (expiryEntry c T).tx = c.tx := rfl
@[simp] theorem expiryEntry_rx (c : Channel) (T : TimerSel) : (expiryEntry c T).rx = c.rx := rfl

/-- A timer written is read back; the others are untouched. -/
@[simp] theorem getTimer_setTimer (c : Channel) (T U : TimerSel) (t : Timer) :
    getTimer (setTimer c T t) U = if U = T then t else getTimer c U := by
  cases T <;> cases U <;> rfl

@[simp] theorem getTimer_tStart (c : Channel) (T U : TimerSel) (d : Dur) :
    getTimer (tStart c T d) U = if U = T then ⟨true, d⟩ else getTimer c U := getTimer_setTimer c T U _

@[simp] theorem getTimer_tResume (c : Channel) (T U : TimerSel) :
    getTimer (tResume c T) U = if U = T then ⟨true, (getTimer c T).cnt⟩ else getTimer c U := getTimer_setTimer c T U _

@[simp] theorem getTimer_tStop (c : Channel) (T U : TimerSel) :
    getTimer (tStop c T) U = if U = T then ⟨false, (getTimer c T).cnt⟩ else getTimer c U := getTimer_setTimer c T U _

@[simp] theorem getTimer_tReset (c : Channel) (T U : TimerSel) (d : Dur) :
    getTimer (tReset c T d) U = if U = T then ⟨false, d⟩ else getTimer c U := getTimer_setTimer c T U _

@[simp] theorem getTimer_expiryEntry (c : Channel) (T U : TimerSel) :
    getTimer (expiryEntry c T) U = if U = T then ⟨false, (getTimer c T).cnt⟩ else getTimer c U := getTimer_setTimer c T U _

/-- `expiryEntry` and `TStop` write the same registers (R102, R228). -/
theorem expiryEntry_eq_tStop (c : Channel) (T : TimerSel) : expiryEntry c T = tStop c T := rfl

end Sys2Proof.Machine
end

