-- ==== Sys2Proof/Laws/Ops.lean ====
section
/-! SUPPORT. What each shared operation can do, said once: outcomes in sequence, a command on a channel, the accesses to the
buffers, the framer, the transmit request, a tick of one timer. Later proofs cite these instead of unfolding the
operations. -/

namespace Sys2Proof.Machine

open Sys2Proof

/-! ### Outcomes in sequence -/

@[simp] theorem andThen_next {α β : Type} (a : α) (f : α → Out β) : andThen (.next a) f = f a := rfl
@[simp] theorem andThen_fault {α β : Type} (r : Fault) (f : α → Out β) : andThen (.fault r) f = .fault r := rfl
@[simp] theorem andThen_refused {α β : Type} (r : Refusal) (f : α → Out β) :
    andThen (.refused r) f = .refused r := rfl

/-- A sequence goes on exactly when both of its parts do. -/
theorem andThen_eq_next {α β : Type} {o : Out α} {f : α → Out β} {b : β} :
    andThen o f = .next b ↔ ∃ a, o = .next a ∧ f a = .next b := by
  cases o <;> simp

/-- A sequence faults exactly when its first part does or its second. -/
theorem andThen_eq_fault {α β : Type} {o : Out α} {f : α → Out β} {r : Fault} :
    andThen o f = .fault r ↔ o = .fault r ∨ ∃ a, o = .next a ∧ f a = .fault r := by
  cases o <;> simp

/-- A sequence is refused exactly when its first part is or its second. -/
theorem andThen_eq_refused {α β : Type} {o : Out α} {f : α → Out β} {r : Refusal} :
    andThen o f = .refused r ↔ o = .refused r ∨ ∃ a, o = .next a ∧ f a = .refused r := by
  cases o <;> simp

/-! ### A command on a channel -/

/-- A channel's own record put back changes nothing. -/
theorem set_same {s : State} {ch : ChIdx} {c : Channel} (h : s.chans[ch.toNat]? = some c) :
    s.chans.set ch.toNat c = s.chans := by
  obtain ⟨hlt, hget⟩ := List.getElem?_eq_some_iff.mp h
  rw [← hget, List.set_getElem_self]

/-- A rule that ends without touching the channel leaves nothing but the response. -/
theorem commit_startWork {s : State} {ch : ChIdx} {c : Channel} (h : s.chans[ch.toNat]? = some c)
    (k : ResultCode) (v : Byte) (d : List Byte) :
    commit s ch ⟨startWork s c, k, v, d⟩ = replied s k v d := by
  simp [commit, replied, startWork, set_same h]

theorem answer_eq_replied (s : State) (k : ResultCode) : answer s k = replied s k 0 [] := rfl

/-- A channel that does not exist is `E_ILLEGAL` (R75). -/
theorem onAnyChannel_none {s : State} {ch : ChIdx} (h : s.chans[ch.toNat]? = none) (rule : Env → Work → Out Answer) :
    onAnyChannel ch s rule = .next (answer s .eIllegal) := by
  simp [onAnyChannel, h]

theorem onAnyChannel_some {s : State} {ch : ChIdx} {c : Channel} (h : s.chans[ch.toNat]? = some c)
    (rule : Env → Work → Out Answer) :
    onAnyChannel ch s rule = andThen (rule (envOf s ch) (startWork s c)) fun a => .next (commit s ch a) := by
  simp [onAnyChannel, h]

theorem onChannel_none {s : State} {ch : ChIdx} (h : s.chans[ch.toNat]? = none) (rule : Env → Work → Out Answer) :
    onChannel ch s rule = .next (answer s .eIllegal) := onAnyChannel_none h _

/-- A channel in Uninit is `E_PRECOND` and nothing changes (R210). -/
theorem onChannel_uninit {s : State} {ch : ChIdx} {c : Channel} (h : s.chans[ch.toNat]? = some c)
    (hu : c.state = .uninit) (rule : Env → Work → Out Answer) :
    onChannel ch s rule = .next (replied s .ePrecond 0 []) := by
  simp [onChannel, onAnyChannel_some h, hu, endWith, commit_startWork h]

/-- An initialised channel runs the rule. -/
theorem onChannel_addressed {s : State} {ch : ChIdx} {c : Channel} (h : Addressed s ch c)
    (rule : Env → Work → Out Answer) :
    onChannel ch s rule = andThen (rule (envOf s ch) (startWork s c)) fun a => .next (commit s ch a) := by
  simp [onChannel, onAnyChannel_some h.1, h.2]

/-- What a command on a channel can answer. -/
theorem onChannel_eq_next {s t : State} {ch : ChIdx} {rule : Env → Work → Out Answer}
    (h : onChannel ch s rule = .next t) :
    (s.chans[ch.toNat]? = none ∧ t = replied s .eIllegal 0 [])
      ∨ (∃ c, s.chans[ch.toNat]? = some c ∧ c.state = .uninit ∧ t = replied s .ePrecond 0 [])
      ∨ (∃ c a, Addressed s ch c ∧ rule (envOf s ch) (startWork s c) = .next a ∧ t = commit s ch a) := by
  cases hc : s.chans[ch.toNat]? with
  | none =>
    rw [onChannel_none hc] at h
    cases h
    exact .inl ⟨rfl, rfl⟩
  | some c =>
    by_cases hu : c.state = .uninit
    · rw [onChannel_uninit hc hu] at h
      cases h
      exact .inr (.inl ⟨c, rfl, hu, rfl⟩)
    · rw [onChannel_addressed ⟨hc, hu⟩, andThen_eq_next] at h
      obtain ⟨a, ha, ht⟩ := h
      cases ht
      exact .inr (.inr ⟨c, a, ⟨hc, hu⟩, ha, rfl⟩)

/-- A rule that ends in a changed channel, read as a changed state. -/
theorem commit_done (s : State) (ch : ChIdx) (w : Work) :
    commit s ch ⟨w, .ok, 0, []⟩ = responded s ch w.chan .ok w.events := rfl

theorem requireStream_of_eq {din : List Byte} {n : Nat} (h : din.length = n) (k : Out Answer) :
    requireStream din n k = k := if_pos h

theorem requireStream_of_ne {din : List Byte} {n : Nat} (h : din.length ≠ n) (k : Out Answer) :
    requireStream din n k = .refused .streamLength := if_neg h

/-! ### Accesses to the buffers -/

/-- Reading TX answers the byte, inside the frame and where it has a value. -/
theorem readTx_eq_next {c : Channel} {k : Nat} {v : Byte} :
    readTx c k = .next v ↔ k < c.cfg.txLen.toNat ∧ readCell c.tx (txAddr k) = some v := by
  unfold readTx
  split
  · rename_i hk
    split <;> simp_all
  · rename_i hk
    simp [hk]

theorem writeTx_eq_next {c c' : Channel} {k : Nat} {v : Byte} :
    writeTx c k v = .next c' ↔ k < c.cfg.txLen.toNat ∧ c' = { c with tx := writeCell c.tx (txAddr k) v } := by
  unfold writeTx
  split <;> simp_all [eq_comm]

/-- The whole transmit buffer: as many bytes as the frame has, each the byte at its position. -/
theorem readTxFrame_eq_next {c : Channel} {f : List Byte} :
    readTxFrame c = .next f ↔
      f.length = c.cfg.txLen.toNat ∧ ∀ k, k < c.cfg.txLen.toNat → readCell c.tx (txAddr k) = f[k]? := by
  have h : readTxFrame c = .next f ↔ readCells c.tx (txAddr 0) c.cfg.txLen.toNat = some f := by
    unfold readTxFrame
    split <;> simp_all
  rw [h, readCells_eq_some]
  simp [txAddr]

/-- A readable transmit buffer is read. -/
theorem readTxFrame_of_readable {c : Channel} (h : TxReadable c) : ∃ f, readTxFrame c = .next f := by
  obtain ⟨f, hf⟩ := readCells_isSome (m := c.tx) (a := txAddr 0) (n := c.cfg.txLen.toNat)
    (fun k hk => by simpa [txAddr] using h k hk)
  exact ⟨f, by unfold readTxFrame; rw [hf]⟩

theorem writeTxFrom_eq_next {c c' : Channel} {k : Nat} {d : List Byte} :
    writeTxFrom c k d = .next c' ↔
      k + d.length ≤ c.cfg.txLen.toNat ∧ c' = { c with tx := writeCells c.tx (txAddr k) d } := by
  unfold writeTxFrom
  split <;> simp_all [eq_comm]

/-- Bytes of the newest slot: as many as asked, each the byte at its position. -/
theorem readRx_eq_next {c : Channel} {k n : Nat} {f : List Byte} :
    readRx c k n = .next f ↔
      (c.rxLast.toNat < c.cfg.rxDepth.toNat ∧ k + n ≤ c.cfg.rxLen.toNat) ∧ f.length = n
        ∧ ∀ j, j < n → readCell c.rx (rxAddr c.rxLast.toNat k + j) = f[j]? := by
  unfold readRx
  split
  · rename_i hr
    rw [← readCells_eq_some]
    split <;> simp_all
  · rename_i hr
    simp [hr]

/-- A reception stores the frame in the next slot and advances `rx_last`, inside the ring. -/
theorem storeRx_eq_next {c c' : Channel} {f : List Byte} :
    storeRx c f = .next c' ↔
      (nextSlot c < c.cfg.rxDepth.toNat ∧ f.length ≤ c.cfg.rxLen.toNat)
        ∧ c' = { c with rxLast := BitVec.ofNat 8 (nextSlot c), rx := writeCells c.rx (rxAddr (nextSlot c) 0) f } := by
  unfold storeRx
  split <;> simp_all [eq_comm]

/-- The next slot lies in the ring, if the ring has one. -/
theorem nextSlot_lt {c : Channel} (h : 1 ≤ c.cfg.rxDepth.toNat) : nextSlot c < c.cfg.rxDepth.toNat := by
  unfold nextSlot
  split
  · omega
  · exact Nat.mod_lt _ h

/-! ### The framer -/

/-- What changing the control-bit-vector byte answers: nothing where it is absent, otherwise one byte written. -/
theorem cbvModify_eq_next {p : Params} {f : Byte → Byte} {c c' : Channel} :
    cbvModify p f c = .next c' ↔
      (present p c.cfg.cbvPos = false ∧ c' = c)
        ∨ (present p c.cfg.cbvPos = true ∧ c.cfg.cbvPos.toNat < c.cfg.txLen.toNat
            ∧ ∃ v, readCell c.tx (txAddr c.cfg.cbvPos.toNat) = some v
              ∧ c' = { c with tx := writeCell c.tx (txAddr c.cfg.cbvPos.toNat) (f v) }) := by
  unfold cbvModify
  cases hp : present p c.cfg.cbvPos
  · simp [eq_comm]
  · simp only [if_true, andThen_eq_next, readTx_eq_next, writeTx_eq_next]
    constructor
    · rintro ⟨v, ⟨hk, hv⟩, _, rfl⟩
      exact .inr ⟨trivial, hk, v, hv, rfl⟩
    · rintro (⟨h, -⟩ | ⟨-, hk, v, hv, rfl⟩)
      · simp at h
      · exact ⟨v, ⟨hk, hv⟩, hk, rfl⟩

/-- A readable control-bit-vector byte is changed, and no other byte. -/
theorem cbvModify_of_readable {p : Params} {f : Byte → Byte} {c : Channel} {v : Byte} (h : CbvReadable p c v) :
    ∃ tx', cbvModify p f c = .next { c with tx := tx' } ∧ CbvWritten p c (f v) tx' := by
  cases hp : present p c.cfg.cbvPos
  · exact ⟨c.tx, cbvModify_eq_next.mpr (.inl ⟨hp, rfl⟩), fun a => by simp [hp]⟩
  · obtain ⟨hk, hv⟩ := h hp
    exact ⟨_, cbvModify_eq_next.mpr (.inr ⟨hp, hk, v, hv, rfl⟩), fun a => by simp [hp]⟩

theorem cbvClrAll_eq_next {p : Params} {c c' : Channel} :
    cbvClrAll p c = .next c' ↔
      (present p c.cfg.cbvPos = false ∧ c' = c)
        ∨ (present p c.cfg.cbvPos = true ∧ c.cfg.cbvPos.toNat < c.cfg.txLen.toNat
            ∧ c' = { c with tx := writeCell c.tx (txAddr c.cfg.cbvPos.toNat) 0 }) := by
  unfold cbvClrAll
  cases hp : present p c.cfg.cbvPos
  · simp [eq_comm]
  · simp [writeTx_eq_next]

/-- A position inside the frame is cleared, and no other byte. -/
theorem cbvClrAll_of_inRange {p : Params} {c : Channel}
    (h : present p c.cfg.cbvPos = true → c.cfg.cbvPos.toNat < c.cfg.txLen.toNat) :
    ∃ tx', cbvClrAll p c = .next { c with tx := tx' } ∧ CbvWritten p c 0 tx' := by
  cases hp : present p c.cfg.cbvPos
  · exact ⟨c.tx, cbvClrAll_eq_next.mpr (.inl ⟨hp, rfl⟩), fun a => by simp [hp]⟩
  · exact ⟨_, cbvClrAll_eq_next.mpr (.inr ⟨hp, h hp, rfl⟩), fun a => by simp [hp]⟩

/-! ### The transmit request and a tick of one timer -/

/-- What a transmit request answers: the buffer goes out, one bus answer is consumed, no register changes. -/
theorem busTx_eq_next {e : Env} {w : Work} {r : Work × Bool} :
    busTx e w = .next r ↔
      ∃ f rest, readTxFrame w.chan = .next f ∧ w.back = r.2 :: rest
        ∧ r.1 = ⟨w.chan, w.events ++ [.txReq e.idx f], rest⟩ := by
  unfold busTx
  rw [andThen_eq_next]
  constructor
  · rintro ⟨f, hf, h⟩
    cases hb : w.back with
    | nil => rw [hb] at h; cases h
    | cons ok rest =>
      rw [hb] at h
      cases h
      exact ⟨f, rest, hf, rfl, rfl⟩
  · rintro ⟨f, rest, hf, hb, hr⟩
    refine ⟨f, hf, ?_⟩
    rw [hb]
    obtain ⟨w', ok⟩ := r
    simp only at hr
    subst hr
    rfl

/-- What a tick of one timer does: nothing to a stopped one, counting down, or the expiry entry and the handler (R104). -/
theorem tTick_cases (expire : TimerSel → Work → Out Work) (T : TimerSel) (e : Dur) (w : Work) :
    ((getTimer w.chan T).run = false ∧ tTick expire T e w = .next w)
      ∨ ((getTimer w.chan T).run = true ∧ ¬ (getTimer w.chan T).cnt ≤ e
          ∧ tTick expire T e w = .next (withChan w (setTimer w.chan T ⟨true, (getTimer w.chan T).cnt - e⟩)))
      ∨ ((getTimer w.chan T).run = true ∧ (getTimer w.chan T).cnt ≤ e
          ∧ tTick expire T e w = expire T (withChan w (expiryEntry w.chan T))) := by
  unfold tTick
  cases hr : (getTimer w.chan T).run
  · exact .inl ⟨rfl, by simp [hr]⟩
  · by_cases hc : (getTimer w.chan T).cnt ≤ e
    · exact .inr (.inr ⟨rfl, hc, by simp [hr, hc]⟩)
    · refine .inr (.inl ⟨rfl, hc, ?_⟩)
      simp only [hr, hc, if_true, if_false]

end Sys2Proof.Machine
end

