-- ==== Sys2Proof/Laws/Canonical.lean ====
section
/-! SUPPORT. Every operation that writes a buffer keeps its canonical form, and the buffers of the reset state have it. -/

namespace Sys2Proof.Machine

open Sys2Proof

/-- Both buffers of a channel are in canonical form. -/
abbrev Channel.memWf (c : Channel) : Prop := Memory.wf c.tx ∧ Memory.wf c.rx

theorem writeTx_memWf {c c' : Channel} {k : Nat} {v : Byte} (h : c.memWf) (hw : writeTx c k v = .next c') :
    c'.memWf := by
  obtain ⟨-, rfl⟩ := writeTx_eq_next.mp hw
  exact ⟨writeCell_wf h.1 _ _, h.2⟩

theorem writeTxFrom_memWf {c c' : Channel} {k : Nat} {d : List Byte} (h : c.memWf)
    (hw : writeTxFrom c k d = .next c') : c'.memWf := by
  obtain ⟨-, rfl⟩ := writeTxFrom_eq_next.mp hw
  exact ⟨writeCells_wf h.1 _ _, h.2⟩

theorem storeRx_memWf {c c' : Channel} {f : List Byte} (h : c.memWf) (hw : storeRx c f = .next c') : c'.memWf := by
  obtain ⟨-, rfl⟩ := storeRx_eq_next.mp hw
  exact ⟨h.1, writeCells_wf h.2 _ _⟩

theorem cbvModify_memWf {p : Params} {g : Byte → Byte} {c c' : Channel} (h : c.memWf)
    (hw : cbvModify p g c = .next c') : c'.memWf := by
  obtain ⟨-, rfl⟩ | ⟨-, -, v, -, rfl⟩ := cbvModify_eq_next.mp hw
  · exact h
  · exact ⟨writeCell_wf h.1 _ _, h.2⟩

theorem cbvClrAll_memWf {p : Params} {c c' : Channel} (h : c.memWf) (hw : cbvClrAll p c = .next c') : c'.memWf := by
  obtain ⟨-, rfl⟩ | ⟨-, -, rfl⟩ := cbvClrAll_eq_next.mp hw
  · exact h
  · exact ⟨writeCell_wf h.1 _ _, h.2⟩

theorem initTx_wf {p : Params} {c : ChanCfg} {m : Memory} (h : Memory.wf m) : Memory.wf (initTx p c m) := by
  have h1 := writeCells_wf h (txAddr 0) (List.replicate c.txLen.toNat 0xFF)
  unfold initTx
  split <;> split
  · exact writeCell_wf (writeCell_wf h1 _ _) _ _
  · exact writeCell_wf h1 _ _
  · exact writeCell_wf h1 _ _
  · exact h1

/-- What INIT leaves in the transmit buffer. -/
theorem readCell_initTx (p : Params) (c : ChanCfg) (m : Memory) (a : Nat) :
    readCell (initTx p c m) a =
      if present p c.nidPos = true ∧ a = c.nidPos.toNat then some c.nodeId
      else if present p c.cbvPos = true ∧ a = c.cbvPos.toNat then some 0
      else if a < c.txLen.toNat then some 0xFF
      else readCell m a := by
  have hf : ∀ b, readCell (writeCells m (txAddr 0) (List.replicate c.txLen.toNat 0xFF)) b
      = if b < c.txLen.toNat then some 0xFF else readCell m b := by
    intro b
    simp only [readCell_writeCells, txAddr, Nat.zero_le, true_and, List.length_replicate, Nat.zero_add, Nat.sub_zero]
    split
    · rename_i hb
      rw [List.getElem?_replicate, if_pos hb]
    · rfl
  unfold initTx
  cases present p c.nidPos <;> cases present p c.cbvPos <;>
    simp only [if_true, if_false, reduceCtorEq, true_and, false_and, readCell_writeCell, hf] <;> rfl

/-- The reset state's buffers list nothing. -/
theorem resetWith_memWf (p : Params) (n : Nat) (port : List Input) :
    ∀ c ∈ (State.resetWith p n port).chans, c.memWf := by
  intro c hc
  rw [List.eq_of_mem_replicate hc]
  exact ⟨List.Pairwise.nil, List.Pairwise.nil⟩

theorem reset_memWf : ∀ c ∈ State.reset.chans, c.memWf := resetWith_memWf _ _ _

end Sys2Proof.Machine
end

