-- ==== Sys2Proof/Laws/Commands.lean ====
section
/-! SUPPORT. Every command addressed to a channel as one rule on that channel's record, what a step can answer, and what a
command can answer. -/

namespace Sys2Proof.Machine

open Sys2Proof

/-- A rule behind the second common check (R210). -/
def gated (rule : Env → Work → Out Answer) (e : Env) (w : Work) : Out Answer :=
  if w.chan.state = .uninit then endWith .ePrecond w else rule e w

/-- The rule a command addressed to a channel runs on that channel's record. -/
def commandRule (o : Operands) : Instr → Env → Work → Out Answer
  | .init, _, w => done w
  | .deinit, _, w => done w
  | .tick, _, w => done w
  | .netreq _, e, w => gated netreqRule e w
  | .netrel _, e, w => gated netrelRule e w
  | .encom _, e, w => gated encomRule e w
  | .discom _, e, w => gated discomRule e w
  | .setud _, e, w => gated (setudRule o.din) e w
  | .getud _, e, w => gated getudRule e w
  | .getnid _, e, w => gated getnidRule e w
  | .getlnid _, e, w => gated getlnidRule e w
  | .rmreq _, e, w => gated rmreqRule e w
  | .getpdu _, e, w => gated getpduRule e w
  | .getst _, e, w => getstRule e w
  | .bussync _, e, w => gated bussyncRule e w
  | .chkrsi _, e, w => gated chkrsiRule e w
  | .setsrb _, e, w => gated setsrbRule e w
  | .txconf failed _, e, w => gated (txconfRule failed) e w
  | .rxind _, e, w => gated (rxindRule o.din) e w
  | .pnconf _, e, w => gated pnconfRule e w
  | .trigtx _, e, w => gated (trigtxRule o.cap) e w
  | .pstart _, e, w => gated pstartRule e w

/-- A command addressed to a channel is its rule on that channel's record. -/
theorem exec_of_channel {i : Instr} {ch : ChIdx} (h : i.channel? = some ch) (s : State) :
    exec i s = onAnyChannel ch s (commandRule s.operands i) := by
  cases i <;> cases h <;> rfl

/-- What a command addressed to a channel can answer: `E_ILLEGAL` where there is no such channel, otherwise what its rule
answers, on that channel's record alone. -/
theorem exec_channel_eq_next {i : Instr} {ch : ChIdx} {s t : State} (h : i.channel? = some ch)
    (ht : exec i s = .next t) :
    (s.chans[ch.toNat]? = none ∧ t = replied s .eIllegal 0 [])
      ∨ ∃ c a, s.chans[ch.toNat]? = some c ∧ commandRule s.operands i (envOf s ch) (startWork s c) = .next a
          ∧ t = commit s ch a := by
  rw [exec_of_channel h] at ht
  cases hc : s.chans[ch.toNat]? with
  | none =>
    rw [onAnyChannel_none hc] at ht
    cases ht
    exact .inl ⟨rfl, rfl⟩
  | some c =>
    rw [onAnyChannel_some hc, andThen_eq_next] at ht
    obtain ⟨a, ha, ht⟩ := ht
    cases ht
    exact .inr ⟨c, a, rfl, ha, rfl⟩

/-- The commands that carry no channel. -/
theorem channel?_eq_none {i : Instr} (h : i.channel? = none) : i = .init ∨ i = .deinit ∨ i = .tick := by
  cases i <;> simp [Instr.channel?] at h ⊢

/-- What INIT can answer. -/
theorem execInit_eq_next {s t : State} (h : execInit s = .next t) :
    s.operands.cfg.chans.length = s.nCh ∧ legalCfg s.params s.operands.cfg = true
      ∧ t = { s with
          glob := s.operands.cfg.glob
          chans := List.zipWith (initChannel s.params s.operands.cfg.glob) s.operands.cfg.chans s.chans
          rsp := some ⟨.ok, 0, [], []⟩ } := by
  unfold execInit at h
  dsimp only at h
  split at h
  · cases h
  · rename_i hl
    split at h
    · rename_i hc
      cases h
      exact ⟨not_not.mp hl, hc, rfl⟩
    · cases h

/-- What DEINIT can answer. -/
theorem execDeinit_eq_next {s t : State} (h : execDeinit s = .next t) :
    ((∀ c ∈ s.chans, c.state = .busSleep)
        ∧ t = { s with chans := s.chans.map fun c => { c with state := .uninit }, rsp := some ⟨.ok, 0, [], []⟩ })
      ∨ ((∃ c ∈ s.chans, c.state ≠ .busSleep) ∧ t = replied s .ePrecond 0 []) := by
  unfold execDeinit at h
  split at h
  · rename_i hall
    cases h
    exact .inl ⟨by simpa using hall, rfl⟩
  · rename_i hall
    cases h
    exact .inr ⟨by simpa using hall, rfl⟩

/-- What TICK can answer. -/
theorem execTick_eq_next {s t : State} (h : execTick s = .next t) :
    ((∀ c ∈ s.chans, c.state ≠ .uninit)
        ∧ ∃ r, tickChannels s.params s.glob 0 s.chans [] s.operands.back = .next r
          ∧ t = { s with chans := r.1, rsp := some ⟨.ok, 0, [], r.2⟩ })
      ∨ ((∃ c ∈ s.chans, c.state = .uninit) ∧ t = replied s .ePrecond 0 []) := by
  unfold execTick at h
  split at h
  · rename_i hall
    obtain ⟨r, hr, h⟩ := andThen_eq_next.mp h
    cases h
    exact .inl ⟨by simpa [initialised] using hall, r, hr, rfl⟩
  · rename_i hall
    cases h
    exact .inr ⟨by simpa [initialised] using hall, rfl⟩

/-- What a step can answer: nothing happens without an input, the reset pin resets, a word that is no command is answered
`E_ILLEGAL`, and a command runs on its operands. -/
theorem step_eq_next {s t : State} (h : step s = .next t) :
    (s.port = [] ∧ t = s)
      ∨ (∃ rest, s.port = .rst :: rest ∧ t = hardReset s rest)
      ∨ (∃ c rest err, s.port = .command c :: rest ∧ decode c.word = .error err ∧ t = replied (accept s c rest) .eIllegal 0 [])
      ∨ (∃ c rest i, s.port = .command c :: rest ∧ decode c.word = .ok i ∧ exec i (accept s c rest) = .next t) := by
  unfold step at h
  split at h
  · rename_i hp
    cases h
    exact .inl ⟨hp, rfl⟩
  · rename_i rest hp
    cases h
    exact .inr (.inl ⟨rest, hp, rfl⟩)
  · rename_i c rest hp
    unfold runWord at h
    split at h
    · rename_i i hi
      exact .inr (.inr (.inr ⟨c, rest, i, hp, hi, h⟩))
    · rename_i err he
      cases h
      exact .inr (.inr (.inl ⟨c, rest, err, hp, he, rfl⟩))

/-- One channel of a TICK and then the rest (R200). -/
theorem tickChannels_cons {p : Params} {g : GlobCfg} {k : Nat} {c : Channel} {cs : List Channel} {evs : List Event}
    {back : List Bool} {r : List Channel × List Event} :
    tickChannels p g k (c :: cs) evs back = .next r ↔
      ∃ w r', tickTimers ⟨p, g, BitVec.ofNat 8 k⟩ p.tickOrder ⟨c, evs, back⟩ = .next w
        ∧ tickChannels p g (k + 1) cs w.events w.back = .next r' ∧ r = (w.chan :: r'.1, r'.2) := by
  simp only [tickChannels, andThen_eq_next]
  constructor
  · rintro ⟨w, hw, r', hr, h⟩
    cases h
    exact ⟨w, r', hw, hr, rfl⟩
  · rintro ⟨w, r', hw, hr, rfl⟩
    exact ⟨w, hw, r', hr, rfl⟩

/-- A property that every tick of one timer keeps, every TICK of a channel keeps. -/
theorem tickTimers_induct {e : Env} {P : Work → Prop}
    (hstep : ∀ T w w', P w → tTick (expire e) T e.glob.tickPeriod w = .next w' → P w') :
    ∀ {Ts : List TimerSel} {w w' : Work}, P w → tickTimers e Ts w = .next w' → P w' := by
  intro Ts
  induction Ts with
  | nil =>
    intro w w' hw h
    cases h
    exact hw
  | cons T Ts ih =>
    intro w w' hw h
    obtain ⟨w1, h1, h2⟩ := andThen_eq_next.mp h
    exact ih (hstep T w w1 hw h1) h2

/-- A relation between a channel's record before and after that every tick of its timers establishes, TICK establishes for
every channel, and the number of channels stays. -/
theorem tickChannels_forall₂ {p : Params} {g : GlobCfg} {R : Channel → Channel → Prop}
    (hch : ∀ k c evs back w, tickTimers ⟨p, g, BitVec.ofNat 8 k⟩ p.tickOrder ⟨c, evs, back⟩ = .next w → R c w.chan) :
    ∀ {cs : List Channel} {k : Nat} {evs : List Event} {back : List Bool} {r : List Channel × List Event},
      tickChannels p g k cs evs back = .next r → List.Forall₂ R cs r.1 := by
  intro cs
  induction cs with
  | nil =>
    intro k evs back r h
    cases h
    exact .nil
  | cons c cs ih =>
    intro k evs back r h
    obtain ⟨w, r', hw, hr, rfl⟩ := tickChannels_cons.mp h
    exact .cons (hch k c evs back w hw) (ih hr)

end Sys2Proof.Machine
end

