-- ==== Sys2Proof/Laws/Procedures.lean ====
section
/-! SUPPORT. What the transition procedures and the expiry handlers do to the channel's record, the events and the answers
left, said once. -/

namespace Sys2Proof.Machine

open Sys2Proof

/-! ### Notifications -/

@[simp] theorem sc_chan (e : Env) (old new : NmState) (w : Work) : (sc e old new w).chan = w.chan := by
  unfold sc; split <;> rfl
@[simp] theorem sc_back (e : Env) (old new : NmState) (w : Work) : (sc e old new w).back = w.back := by
  unfold sc; split <;> rfl
@[simp] theorem sc_events (e : Env) (old new : NmState) (w : Work) :
    (sc e old new w).events = w.events ++ scEvents e.glob e.idx old new := by
  unfold sc scEvents; split <;> simp

@[simp] theorem cancelRsi_chan (e : Env) (w : Work) :
    (cancelRsi e w).chan = { w.chan with rsiIndicated := false } := by
  unfold cancelRsi
  split
  · rfl
  · rename_i h
    rw [Bool.not_eq_true] at h
    rw [← h]
@[simp] theorem cancelRsi_back (e : Env) (w : Work) : (cancelRsi e w).back = w.back := by
  unfold cancelRsi; split <;> rfl
@[simp] theorem cancelRsi_events (e : Env) (w : Work) :
    (cancelRsi e w).events = w.events ++ cancelEvents w.chan e.idx := by
  unfold cancelRsi cancelEvents; split <;> simp

@[simp] theorem txTimeoutNote_chan (e : Env) (w : Work) : (txTimeoutNote e w).chan = w.chan := by
  unfold txTimeoutNote; split <;> rfl
@[simp] theorem txTimeoutNote_back (e : Env) (w : Work) : (txTimeoutNote e w).back = w.back := by
  unfold txTimeoutNote; split <;> rfl
@[simp] theorem txTimeoutNote_events (e : Env) (w : Work) :
    (txTimeoutNote e w).events = w.events ++ if w.chan.txEnabled then [.txTimeout e.idx] else [] := by
  unfold txTimeoutNote; split <;> simp

/-! ### Parts of the transitions -/

theorem enableTx_eq (g : GlobCfg) (c : Channel) :
    enableTx g c = { c with txEnabled := if g.passive then c.txEnabled else true } := by
  unfold enableTx; split <;> rfl

theorem loadBurst_eq (byRequest : Bool) (c : Channel) :
    loadBurst byRequest c
      = { c with immTxCnt := if byRequest && c.cfg.immTxEn then c.cfg.immTxCount else c.immTxCnt } := by
  unfold loadBurst; split <;> rfl

theorem rearmRepeat_eq (c : Channel) :
    rearmRepeat c
      = { c with tm := { c.tm with repeatMsg := ⟨true, c.cfg.tRepeat⟩, msgCycle := ⟨true, c.cfg.tMsgOffset⟩ } } := rfl

theorem rearmTimeout_eq (w : Work) :
    rearmTimeout w
      = ⟨{ w.chan with tm := { w.chan.tm with timeout := ⟨true, w.chan.cfg.tTimeout⟩ } }, w.events, w.back⟩ := rfl

theorem wakeChannel_eq (g : GlobCfg) (byRequest : Bool) (c : Channel) :
    wakeChannel g byRequest c
      = { c with
          mode := .network
          state := .repeatMessage
          txEnabled := !g.passive
          immTxCnt := if byRequest && c.cfg.immTxEn then c.cfg.immTxCount else 0
          blrActive := false
          tm := wokenTimers c } := rfl

/-- What the message-cycle handler changes after its transmit request: the burst counter and its own timer. -/
theorem afterCycleTx_form (ok : Bool) (c : Channel) :
    ∃ mc ic, afterCycleTx ok c = { c with immTxCnt := ic, tm := { c.tm with msgCycle := mc } } := by
  unfold afterCycleTx
  by_cases h : c.immTxCnt = 0 <;> cases ok <;>
    simp only [h, ne_eq, not_true, not_false_eq_true, if_true, if_false, reduceCtorEq]
  · exact ⟨_, 0, by rw [← h]; rfl⟩
  · exact ⟨_, 0, by rw [← h]; rfl⟩
  · exact ⟨_, _, rfl⟩
  · exact ⟨_, _, rfl⟩

/-! ### What each handler can answer -/

theorem expireTimeout_eq_next {e : Env} {w w' : Work} (h : expire e .timeout w = .next w') :
    ((w.chan.state = .repeatMessage ∨ w.chan.state = .normalOperation) ∧ w' = txTimeoutNote e (rearmTimeout w))
      ∨ (w.chan.state = .readySleep ∧ trRsPbs e w = .next w')
      ∨ (w.chan.state ≠ .repeatMessage ∧ w.chan.state ≠ .normalOperation ∧ w.chan.state ≠ .readySleep ∧ w' = w) := by
  simp only [expire, expireTimeout] at h
  split at h
  all_goals first
    | (rename_i hs; exact .inr (.inl ⟨hs, h⟩))
    | (rename_i hs; cases h; exact .inl ⟨by simp [hs], rfl⟩)
    | (rename_i hs; cases h; exact .inr (.inr ⟨by simp [hs], by simp [hs], by simp [hs], rfl⟩))

theorem expireMsgCycle_eq_next {e : Env} {w w' : Work} (h : expire e .msgCycle w = .next w') :
    (((w.chan.state = .repeatMessage ∨ w.chan.state = .normalOperation) ∧ w.chan.txEnabled = true)
        ∧ ∃ f ok rest, readTxFrame w.chan = .next f ∧ w.back = ok :: rest
          ∧ w' = ⟨afterCycleTx ok w.chan, w.events ++ [.txReq e.idx f], rest⟩)
      ∨ (¬ ((w.chan.state = .repeatMessage ∨ w.chan.state = .normalOperation) ∧ w.chan.txEnabled = true) ∧ w' = w) := by
  simp only [expire, expireMsgCycle] at h
  split at h
  · rename_i hc
    obtain ⟨r, hr, h⟩ := andThen_eq_next.mp h
    obtain ⟨f, rest, hf, hb, hw⟩ := busTx_eq_next.mp hr
    cases h
    exact .inl ⟨hc, f, r.2, rest, hf, hb, by rw [hw]; rfl⟩
  · rename_i hc
    cases h
    exact .inr ⟨hc, rfl⟩

theorem expireRepeatMsg_eq_next {e : Env} {w w' : Work} (h : expire e .repeatMsg w = .next w') :
    (w.chan.state = .repeatMessage ∧ w.chan.requested = true ∧ trRmNo e w = .next w')
      ∨ (w.chan.state = .repeatMessage ∧ w.chan.requested = false ∧ trRmRs e w = .next w')
      ∨ (w.chan.state ≠ .repeatMessage ∧ w' = w) := by
  simp only [expire, expireRepeatMsg] at h
  split at h
  · rename_i hs
    split at h
    · rename_i hr
      exact .inl ⟨hs, hr, h⟩
    · rename_i hr
      exact .inr (.inl ⟨hs, by simpa using hr, h⟩)
  · rename_i hs
    cases h
    exact .inr (.inr ⟨hs, rfl⟩)

theorem expireWaitBusSleep_eq_next {e : Env} {w w' : Work} (h : expire e .waitBusSleep w = .next w') :
    (w.chan.state = .prepareBusSleep ∧ w' = trPbsBs e w) ∨ (w.chan.state ≠ .prepareBusSleep ∧ w' = w) := by
  simp only [expire, expireWaitBusSleep] at h
  split at h
  · rename_i hs
    cases h
    exact .inl ⟨hs, rfl⟩
  · rename_i hs
    cases h
    exact .inr ⟨hs, rfl⟩

theorem expireRemoteSleep_eq_next {e : Env} {w w' : Work} (h : expire e .remoteSleep w = .next w') :
    ((w.chan.state = .normalOperation ∧ w.chan.rsiEnabled = true ∧ w.chan.rsiIndicated = false)
        ∧ w' = ⟨{ w.chan with rsiIndicated := true }, w.events ++ [.rsiInd e.idx], w.back⟩)
      ∨ (¬ (w.chan.state = .normalOperation ∧ w.chan.rsiEnabled = true ∧ w.chan.rsiIndicated = false) ∧ w' = w) := by
  simp only [expire, expireRemoteSleep] at h
  split at h
  · rename_i hc
    cases h
    exact .inl ⟨hc, rfl⟩
  · rename_i hc
    cases h
    exact .inr ⟨hc, rfl⟩

/-- What leaving Ready-Sleep for Prepare-Bus-Sleep can answer: only the transmit buffer depends on the framer. -/
theorem trRsPbs_eq_next {e : Env} {w w' : Work} (h : trRsPbs e w = .next w') :
    ∃ tx', ((w.chan.cfg.awEn = false ∧ tx' = w.chan.tx)
        ∨ (w.chan.cfg.awEn = true ∧ cbvClr e.params e.params.cbvAw w.chan = .next { w.chan with tx := tx' }))
      ∧ w' = ⟨{ w.chan with
                mode := .prepareBusSleep
                state := .prepareBusSleep
                tx := tx'
                tm := { w.chan.tm with waitBusSleep := ⟨true, w.chan.cfg.tWbs⟩ } },
          w.events ++ .prepareBusSleep e.idx :: scEvents e.glob e.idx .readySleep .prepareBusSleep, w.back⟩ := by
  unfold trRsPbs at h
  dsimp only at h
  obtain ⟨c', hc, h⟩ := andThen_eq_next.mp h
  have key : ∃ tx', ((w.chan.cfg.awEn = false ∧ tx' = w.chan.tx)
        ∨ (w.chan.cfg.awEn = true ∧ cbvClr e.params e.params.cbvAw w.chan = .next { w.chan with tx := tx' }))
      ∧ c' = { w.chan with mode := .prepareBusSleep, state := .prepareBusSleep, tx := tx' } := by
    split at hc
    · rename_i haw
      obtain ⟨hp, rfl⟩ | ⟨hp, hk, v, hv, rfl⟩ := cbvModify_eq_next.mp hc
      · exact ⟨_, .inr ⟨haw, cbvModify_eq_next.mpr (.inl ⟨hp, rfl⟩)⟩, rfl⟩
      · exact ⟨_, .inr ⟨haw, cbvModify_eq_next.mpr (.inr ⟨hp, hk, v, hv, rfl⟩)⟩, rfl⟩
    · rename_i haw
      cases hc
      exact ⟨_, .inl ⟨by simpa using haw, rfl⟩, rfl⟩
  obtain ⟨tx', htx, rfl⟩ := key
  refine ⟨tx', htx, ?_⟩
  cases h
  unfold sc scEvents
  split <;> simp [tStart, setTimer, withChan, emit]

/-- What leaving Repeat-Message for Normal-Operation can answer. -/
theorem trRmNo_eq_next {e : Env} {w w' : Work} (h : trRmNo e w = .next w') :
    ∃ tx', cbvClrAll e.params w.chan = .next { w.chan with tx := tx' }
      ∧ w' = ⟨{ w.chan with
                state := .normalOperation
                blrActive := w.chan.cfg.blrEn
                tx := tx'
                tm := if w.chan.rsiEnabled then { w.chan.tm with remoteSleep := ⟨true, w.chan.cfg.tRsi⟩ }
                      else w.chan.tm },
          w.events ++ scEvents e.glob e.idx .repeatMessage .normalOperation, w.back⟩ := by
  unfold trRmNo at h
  dsimp only at h
  obtain ⟨c', hc, h⟩ := andThen_eq_next.mp h
  have key : ∃ tx', cbvClrAll e.params w.chan = .next { w.chan with tx := tx' }
      ∧ c' = { w.chan with state := .normalOperation, blrActive := w.chan.cfg.blrEn, tx := tx' } := by
    obtain ⟨hp, rfl⟩ | ⟨hp, hk, rfl⟩ := cbvClrAll_eq_next.mp hc
    · exact ⟨_, cbvClrAll_eq_next.mpr (.inl ⟨hp, rfl⟩), rfl⟩
    · exact ⟨_, cbvClrAll_eq_next.mpr (.inr ⟨hp, hk, rfl⟩), rfl⟩
  obtain ⟨tx', htx, rfl⟩ := key
  refine ⟨tx', htx, ?_⟩
  cases h
  cases hr : w.chan.rsiEnabled <;> unfold sc scEvents <;> split <;>
    simp [tStart, setTimer, withChan, emit, hr]

/-- What leaving Repeat-Message for Ready-Sleep can answer. -/
theorem trRmRs_eq_next {e : Env} {w w' : Work} (h : trRmRs e w = .next w') :
    ∃ tx', ((w.chan.cfg.ndEn = false ∧ tx' = w.chan.tx)
        ∨ (w.chan.cfg.ndEn = true ∧ cbvClrAll e.params w.chan = .next { w.chan with tx := tx' }))
      ∧ w' = ⟨{ w.chan with state := .readySleep, txEnabled := false, tx := tx' },
          w.events ++ scEvents e.glob e.idx .repeatMessage .readySleep, w.back⟩ := by
  unfold trRmRs at h
  dsimp only at h
  obtain ⟨c', hc, h⟩ := andThen_eq_next.mp h
  have key : ∃ tx', ((w.chan.cfg.ndEn = false ∧ tx' = w.chan.tx)
        ∨ (w.chan.cfg.ndEn = true ∧ cbvClrAll e.params w.chan = .next { w.chan with tx := tx' }))
      ∧ c' = { w.chan with state := .readySleep, txEnabled := false, tx := tx' } := by
    split at hc
    · rename_i hnd
      obtain ⟨hp, rfl⟩ | ⟨hp, hk, rfl⟩ := cbvClrAll_eq_next.mp hc
      · exact ⟨_, .inr ⟨hnd, cbvClrAll_eq_next.mpr (.inl ⟨hp, rfl⟩)⟩, rfl⟩
      · exact ⟨_, .inr ⟨hnd, cbvClrAll_eq_next.mpr (.inr ⟨hp, hk, rfl⟩)⟩, rfl⟩
    · rename_i hnd
      cases hc
      exact ⟨_, .inl ⟨by simpa using hnd, rfl⟩, rfl⟩
  obtain ⟨tx', htx, rfl⟩ := key
  refine ⟨tx', htx, ?_⟩
  cases h
  unfold sc scEvents
  split <;> simp [withChan, emit]

/-! ### Parts of the commands -/

/-- Setting a control bit changes the transmit buffer only. -/
theorem cbvSet_eq_next {p : Params} {b : Fin 8} {c c' : Channel} (h : cbvSet p b c = .next c') :
    ∃ tx', c' = { c with tx := tx' } ∧ cbvSet p b c = .next { c with tx := tx' } := by
  obtain ⟨hp, rfl⟩ | ⟨hp, hk, v, hv, rfl⟩ := cbvModify_eq_next.mp h
  · exact ⟨c'.tx, rfl, h⟩
  · exact ⟨_, rfl, h⟩

/-- The framer reads the configuration and the transmit buffer of the record only. -/
theorem cbvModify_congr {p : Params} {f : Byte → Byte} {c d : Channel} {tx' : Memory}
    (h : cbvModify p f c = .next { c with tx := tx' }) (h1 : d.cfg = c.cfg) (h2 : d.tx = c.tx) :
    cbvModify p f d = .next { d with tx := tx' } := by
  rw [cbvModify_eq_next] at h ⊢
  rcases h with ⟨a1, a2⟩ | ⟨a1, a2, v, a3, a4⟩
  · refine .inl ⟨h1 ▸ a1, ?_⟩
    have : tx' = d.tx := (congrArg Channel.tx a2).trans h2.symm
    rw [this]
  · refine .inr ⟨h1 ▸ a1, h1 ▸ a2, v, by rw [h1, h2]; exact a3, ?_⟩
    have : tx' = _ := congrArg Channel.tx a4
    rw [this, h1, h2]

/-- As `cbvModify_congr`. -/
theorem cbvClrAll_congr {p : Params} {c d : Channel} {tx' : Memory}
    (h : cbvClrAll p c = .next { c with tx := tx' }) (h1 : d.cfg = c.cfg) (h2 : d.tx = c.tx) :
    cbvClrAll p d = .next { d with tx := tx' } := by
  rw [cbvClrAll_eq_next] at h ⊢
  rcases h with ⟨a1, a2⟩ | ⟨a1, a2, a4⟩
  · refine .inl ⟨h1 ▸ a1, ?_⟩
    have : tx' = d.tx := (congrArg Channel.tx a2).trans h2.symm
    rw [this]
  · refine .inr ⟨h1 ▸ a1, h1 ▸ a2, ?_⟩
    have : tx' = _ := congrArg Channel.tx a4
    rw [this, h1, h2]

/-- What a network request in a sleeping mode can answer: the shared entry, with the active-wakeup bit set first. -/
theorem netreqAsleep_eq_next {e : Env} {w w' : Work} (h : netreqAsleep e w = .next w') :
    ∃ tx', (tx' = w.chan.tx ∨ cbvSet e.params e.params.cbvAw w.chan = .next { w.chan with tx := tx' })
      ∧ w' = wake e true (withChan w { w.chan with tx := tx' }) := by
  unfold netreqAsleep at h
  obtain ⟨c, hc, h⟩ := andThen_eq_next.mp h
  have hw : w' = wake e true (withChan w c) := by split at h <;> cases h <;> rfl
  rw [hw]
  split at hc
  · obtain ⟨tx', rfl, hc⟩ := cbvSet_eq_next hc
    exact ⟨tx', .inr hc, rfl⟩
  · cases hc
    exact ⟨w.chan.tx, .inl rfl, rfl⟩

/-- What TXCONF changes in the record: the timeout timer. -/
theorem txconfRule_eq_next {failed : Bool} {e : Env} {w : Work} {a : Answer} (h : txconfRule failed e w = .next a) :
    ∃ t, a.work.chan = { w.chan with tm := { w.chan.tm with timeout := t } } := by
  unfold txconfRule at h
  cases h
  dsimp only
  split <;> split <;> exact ⟨_, rfl⟩

/-- What a reception in Network mode changes in the record before it looks at the repeat-message bit: three timers and
`rsi_indicated`. -/
theorem rxNetwork_form (e : Env) (w : Work) :
    ∃ mc rs ri, (rxReduced (rxRemoteSleep e (rxSelf w))).chan =
      { w.chan with
        rsiIndicated := ri
        tm := { w.chan.tm with timeout := ⟨true, w.chan.cfg.tTimeout⟩, msgCycle := mc, remoteSleep := rs } } := by
  have h1 : rxSelf w = rearmTimeout w := by unfold rxSelf; cases w.chan.state <;> rfl
  have h2 : ∃ rs ri, (rxRemoteSleep e (rxSelf w)).chan =
      { w.chan with
        rsiIndicated := ri
        tm := { w.chan.tm with timeout := ⟨true, w.chan.cfg.tTimeout⟩, remoteSleep := rs } } := by
    rw [h1]
    unfold rxRemoteSleep
    split
    · dsimp only
      split
      · exact ⟨⟨true, w.chan.cfg.tRsi⟩, false, by simp [rearmTimeout_eq, tStart, setTimer]⟩
      · exact ⟨w.chan.tm.remoteSleep, false, by simp [rearmTimeout_eq]⟩
    · exact ⟨_, _, rfl⟩
  obtain ⟨rs, ri, h2⟩ := h2
  unfold rxReduced
  split
  · exact ⟨_, rs, ri, by rw [withChan_chan, h2]; rfl⟩
  · exact ⟨_, rs, ri, h2⟩

end Sys2Proof.Machine
end

