-- ==== Sys2Proof/Laws/Frames.lean ====
section
/-! SUPPORT. What a command and a tick of one timer can do to a channel's record, said once and field by field, and the
induction that lifts a property of channel records to every command and to every step. -/

namespace Sys2Proof.Machine

open Sys2Proof

/-- A property that passes from each record of a list to the one at its place in another list holds throughout. -/
theorem forall₂_mem {P : Channel → Prop} {l l' : List Channel} (hf : List.Forall₂ (fun c c' => P c → P c') l l') :
    (∀ c ∈ l, P c) → ∀ c ∈ l', P c := by
  induction hf with
  | nil => simp
  | cons hab _ ih =>
    intro hl c' hc'
    rcases List.mem_cons.mp hc' with rfl | hc'
    · exact hab (hl _ (by simp))
    · exact ih (fun c hc => hl c (by simp [hc])) c' hc'

/-- A property of channel records that every rule keeps, every tick of one timer keeps on an initialised channel, and INIT
and DEINIT keep, every command keeps. -/
theorem exec_keeps_channelwise (P : Params → GlobCfg → Channel → Prop)
    (hrule : ∀ o i e w a, commandRule o i e w = .next a → P e.params e.glob w.chan → P e.params e.glob a.work.chan)
    (htick : ∀ e T w w', w.chan.state ≠ .uninit → P e.params e.glob w.chan →
      tTick (expire e) T e.glob.tickPeriod w = .next w' → P e.params e.glob w'.chan ∧ w'.chan.state ≠ .uninit)
    (hinit : ∀ p g g' f c, legalChan p f = true → P p g' c → P p g (initChannel p g f c))
    (hdeinit : ∀ p g c, c.state = .busSleep → P p g c → P p g { c with state := .uninit })
    (i : Instr) (s t : State) (hp : ∀ c ∈ s.chans, P s.params s.glob c) (h : exec i s = .next t) :
    ∀ c ∈ t.chans, P t.params t.glob c := by
  cases hc : i.channel? with
  | some ch =>
    rcases exec_channel_eq_next hc h with ⟨_, rfl⟩ | ⟨c, a, h1, h2, rfl⟩
    · exact hp
    · intro c' hc'
      simp only [commit_chans] at hc'
      rcases List.mem_or_eq_of_mem_set hc' with h' | rfl
      · exact hp _ h'
      · exact hrule _ _ _ _ _ h2 (hp _ (List.mem_of_getElem? h1))
  | none =>
    rcases channel?_eq_none hc with rfl | rfl | rfl
    · obtain ⟨h1, h2, rfl⟩ := execInit_eq_next h
      intro c' hc'
      simp only at hc'
      obtain ⟨k, hk, rfl⟩ := List.mem_iff_getElem.mp hc'
      simp only [List.getElem_zipWith]
      have h3 : ∀ x ∈ s.operands.cfg.chans, legalChan s.params x = true := by
        have : (s.operands.cfg.chans.all (legalChan s.params)) = true := by
          unfold legalCfg at h2; simp at h2 ⊢; exact h2.2
        simpa using this
      exact hinit _ _ s.glob _ _ (h3 _ (List.getElem_mem _)) (hp _ (List.getElem_mem _))
    · rcases execDeinit_eq_next h with ⟨h1, rfl⟩ | ⟨_, rfl⟩
      · intro c' hc'
        obtain ⟨c, hc, rfl⟩ := List.mem_map.mp hc'
        exact hdeinit _ _ _ (h1 c hc) (hp c hc)
      · exact hp
    · rcases execTick_eq_next h with ⟨h1, r, h2, rfl⟩ | ⟨_, rfl⟩
      · have hall := tickChannels_forall₂
          (R := fun c c' => (P s.params s.glob c ∧ c.state ≠ .uninit) → P s.params s.glob c' ∧ c'.state ≠ .uninit)
          (fun k c evs back w hw hP => tickTimers_induct (P := fun w => P s.params s.glob w.chan ∧ w.chan.state ≠ .uninit)
            (fun T w w' hw ht => htick _ T w w' hw.2 hw.1 ht) hP hw) h2
        exact fun c' hc' => (forall₂_mem hall (fun c hc => ⟨hp c hc, h1 c hc⟩) c' hc').1
      · exact hp

/-- A property of channel records that every command keeps and reset has, every step keeps. -/
theorem step_keeps_channelwise (P : Params → GlobCfg → Channel → Prop)
    (hexec : ∀ i s t, (∀ c ∈ s.chans, P s.params s.glob c) → exec i s = .next t → ∀ c ∈ t.chans, P t.params t.glob c)
    (hreset : ∀ p, P p .zero .reset) (s t : State) (hp : ∀ c ∈ s.chans, P s.params s.glob c) (h : step s = .next t) :
    ∀ c ∈ t.chans, P t.params t.glob c := by
  rcases step_eq_next h with ⟨_, rfl⟩ | ⟨rest, _, rfl⟩ | ⟨c, rest, err, _, _, rfl⟩ | ⟨c, rest, i, _, _, h⟩
  · exact hp
  · intro c hc
    rw [List.eq_of_mem_replicate hc]; exact hreset _
  · exact hp
  · exact hexec i _ _ (by exact hp) h

/-- What the rule of a command addressed to a channel can do to the record: the configuration stays, Uninit changes nothing
and is never entered, a legal pair stays legal, the buffers change only as a named operation changes them, and `requested`,
`pn_confirmed` and the state change only as the rules list. -/
structure RuleFrame (i : Instr) (p : Params) (g : GlobCfg) (c c' : Channel) : Prop where
  cfg : c'.cfg = c.cfg
  uninit : c.state = .uninit → c' = c
  initialised : c.state ≠ .uninit → c'.state ≠ .uninit
  legal : legalPair c.mode c.state = true → legalPair c'.mode c'.state = true
  passive : (c.txEnabled = true → g.passive = false) → c'.txEnabled = true → g.passive = false
  repeatTimer : legalPair c.mode c.state = true → (c.tm.repeatMsg.run = true → c.state = .repeatMessage) →
    c'.tm.repeatMsg.run = true → c'.state = .repeatMessage
  tx : c'.tx = c.tx
    ∨ (∃ b, (b = p.cbvAw ∨ b = p.cbvRmr ∨ b = p.cbvCsr) ∧ cbvSet p b c = .next { c with tx := c'.tx })
    ∨ (∃ din, din.length = udLen p c.cfg ∧ writeTxFrom c (udOff p c.cfg) din = .next { c with tx := c'.tx })
  rx : (c'.rx = c.rx ∧ c'.rxLast = c.rxLast)
    ∨ (∃ f, f.length = c.cfg.rxLen.toNat ∧ storeRx c f = .next { c with rx := c'.rx, rxLast := c'.rxLast })
  requested : c'.requested ≠ c.requested →
    ((∃ ch, i = .netreq ch) ∧ c'.requested = true) ∨ ((∃ ch, i = .netrel ch) ∧ c'.requested = false)
  pnConfirmed : c'.pnConfirmed ≠ c.pnConfirmed → (∃ ch, i = .pnconf ch) ∧ c'.pnConfirmed = true
  moves : legalPair c.mode c.state = true → c'.state ≠ c.state → MoveAllowed i c.state c'.state

/-- A record left as it was. -/
theorem RuleFrame.refl (i : Instr) (p : Params) (g : GlobCfg) (c : Channel) : RuleFrame i p g c c :=
  ⟨rfl, fun _ => rfl, id, id, id, fun _ => id, .inl rfl, .inl ⟨rfl, rfl⟩, fun h => absurd rfl h, fun h => absurd rfl h,
    fun _ h => absurd rfl h⟩

/-- A record whose mode, state, `requested` and repeat-message timer stay. -/
theorem RuleFrame.still {i : Instr} {p : Params} {g : GlobCfg} {c c' : Channel} (hu : c.state ≠ .uninit)
    (hcfg : c'.cfg = c.cfg) (hmode : c'.mode = c.mode) (hstate : c'.state = c.state) (hreq : c'.requested = c.requested)
    (hrep : c'.tm.repeatMsg = c.tm.repeatMsg) (hpas : c'.txEnabled = true → c.txEnabled = true ∨ g.passive = false)
    (htx : c'.tx = c.tx
      ∨ (∃ b, (b = p.cbvAw ∨ b = p.cbvRmr ∨ b = p.cbvCsr) ∧ cbvSet p b c = .next { c with tx := c'.tx })
      ∨ (∃ din, din.length = udLen p c.cfg ∧ writeTxFrom c (udOff p c.cfg) din = .next { c with tx := c'.tx }))
    (hrx : (c'.rx = c.rx ∧ c'.rxLast = c.rxLast)
      ∨ (∃ f, f.length = c.cfg.rxLen.toNat ∧ storeRx c f = .next { c with rx := c'.rx, rxLast := c'.rxLast }))
    (hpn : c'.pnConfirmed ≠ c.pnConfirmed → (∃ ch, i = .pnconf ch) ∧ c'.pnConfirmed = true) : RuleFrame i p g c c' where
  cfg := hcfg
  uninit := fun h => absurd h hu
  initialised := fun h => hstate ▸ h
  legal := fun h => by rw [hmode, hstate]; exact h
  passive := fun h1 h2 => (hpas h2).elim h1 id
  repeatTimer := fun _ h => by rw [hrep, hstate]; exact h
  tx := htx
  rx := hrx
  requested := fun h => absurd hreq h
  pnConfirmed := hpn
  moves := fun _ h => absurd hstate h

/-- A legal pair outside Network mode, in an initialised channel, is one of the two sleeping states. -/
theorem legalPair_asleep {m : Mode} {st : NmState} (h : legalPair m st = true) (hm : m ≠ .network) (hu : st ≠ .uninit) :
    (m = .busSleep ∧ st = .busSleep) ∨ (m = .prepareBusSleep ∧ st = .prepareBusSleep) := by
  revert h hm hu
  cases m <;> cases st <;> decide

/-- The pair a network state belongs to. -/
theorem legalPair_awake {m : Mode} {st : NmState} (h : legalPair m st = true)
    (hs : st = .repeatMessage ∨ st = .normalOperation ∨ st = .readySleep) : m = .network := by
  revert h hs
  cases m <;> cases st <;> decide

/-- The shared entry to Repeat-Message, for each command that makes it. -/
theorem rule_frame_wake {i : Instr} {e : Env} {byRequest : Bool} {w w0 : Work} (hu : w0.chan.state ≠ .uninit)
    (hcfg : w.chan.cfg = w0.chan.cfg) (hpn : w.chan.pnConfirmed = w0.chan.pnConfirmed)
    (htx : w.chan.tx = w0.chan.tx
      ∨ (∃ b, (b = e.params.cbvAw ∨ b = e.params.cbvRmr ∨ b = e.params.cbvCsr)
          ∧ cbvSet e.params b w0.chan = .next { w0.chan with tx := w.chan.tx }))
    (hrx : (w.chan.rx = w0.chan.rx ∧ w.chan.rxLast = w0.chan.rxLast)
      ∨ (∃ f, f.length = w0.chan.cfg.rxLen.toNat
          ∧ storeRx w0.chan f = .next { w0.chan with rx := w.chan.rx, rxLast := w.chan.rxLast }))
    (hreq : w.chan.requested ≠ w0.chan.requested → (∃ ch, i = .netreq ch) ∧ w.chan.requested = true)
    (hmove : legalPair w0.chan.mode w0.chan.state = true → MoveAllowed i w0.chan.state .repeatMessage) :
    RuleFrame i e.params e.glob w0.chan (wake e byRequest w).chan := by
  simp only [wake, sc_chan, emit_chan, withChan_chan, wakeChannel_eq]
  refine ⟨hcfg, fun h => absurd h hu, by simp, by simp [legalPair], by simp, by simp, htx.imp_right .inl, hrx,
    fun h => .inl (hreq h), fun h => absurd hpn h, fun hl _ => hmove hl⟩

/-- Every rule keeps within `RuleFrame`. -/
theorem rule_frame (o : Operands) (i : Instr) (e : Env) (w : Work) (a : Answer) (h : commandRule o i e w = .next a) :
    RuleFrame i e.params e.glob w.chan a.work.chan := by
  have refl : ∀ c, RuleFrame i e.params e.glob c c := RuleFrame.refl i e.params e.glob
  by_cases hu : w.chan.state = .uninit
  · have hw : a.work.chan = w.chan := by
      cases i <;> simp only [commandRule, gated, hu, if_true, endWith, done, getstRule, doneVal] at h <;> cases h <;> rfl
    rw [hw]
    exact refl _
  have noPn : ∀ {c' : Channel}, c'.pnConfirmed = w.chan.pnConfirmed → c'.pnConfirmed ≠ w.chan.pnConfirmed →
      (∃ ch, i = .pnconf ch) ∧ c'.pnConfirmed = true := fun h h' => absurd h h'
  cases i <;> simp only [commandRule, gated, hu, if_false] at h
  case init => cases h; exact refl _
  case deinit => cases h; exact refl _
  case tick => cases h; exact refl _
  case getst => cases h; exact refl _
  case getlnid =>
    unfold getlnidRule at h
    split at h <;> cases h <;> exact refl _
  case chkrsi =>
    unfold chkrsiRule at h
    split at h <;> cases h <;> exact refl _
  case getpdu =>
    unfold getpduRule at h
    split at h
    · cases h; exact refl _
    · obtain ⟨f, _, h⟩ := andThen_eq_next.mp h; cases h; exact refl _
  case getud =>
    unfold getudRule at h
    dsimp only at h
    split at h
    · cases h; exact refl _
    · obtain ⟨f, _, h⟩ := andThen_eq_next.mp h; cases h; exact refl _
  case getnid =>
    unfold getnidRule at h
    split at h
    · cases h; exact refl _
    · obtain ⟨f, _, h⟩ := andThen_eq_next.mp h; cases h; exact refl _
  case trigtx =>
    unfold trigtxRule at h
    split at h
    · cases h; exact refl _
    · obtain ⟨f, _, h⟩ := andThen_eq_next.mp h; cases h; exact refl _
  case bussync =>
    unfold bussyncRule at h
    split at h
    · cases h; exact refl _
    · obtain ⟨r, hr, h⟩ := andThen_eq_next.mp h
      obtain ⟨f, rest, _, _, hw⟩ := busTx_eq_next.mp hr
      split at h <;> cases h <;> simp only [hw] <;> exact refl _
  case netrel =>
    unfold netrelRule at h
    cases h
    dsimp only
    split
    · rename_i hs
      simp only [trNoRs, sc_chan, withChan_chan]
      have hs : w.chan.state = .normalOperation := hs
      refine ⟨rfl, fun h => absurd h hu, by simp, fun h => ?_, by simp, fun _ h1 h2 => ?_, .inl rfl, .inl ⟨rfl, rfl⟩,
        fun _ => .inr ⟨⟨_, rfl⟩, rfl⟩, fun h => absurd rfl h, fun _ _ => ⟨hs, rfl⟩⟩
      · rw [legalPair_awake h (.inr (.inl hs))]; rfl
      · rw [h1 h2] at hs; cases hs
    · exact ⟨rfl, fun h => absurd h hu, id, id, id, fun _ => id, .inl rfl, .inl ⟨rfl, rfl⟩,
        fun _ => .inr ⟨⟨_, rfl⟩, rfl⟩, fun h => absurd rfl h, fun _ h => absurd rfl h⟩
  case encom =>
    unfold encomRule at h
    split at h
    · cases h; exact refl _
    · rename_i hg
      cases h
      refine .still hu rfl rfl rfl rfl rfl (fun _ => .inr ?_) (.inl rfl) (.inl ⟨rfl, rfl⟩) (noPn rfl)
      simpa using fun hp => hg (.inr (.inl hp))
  case discom =>
    unfold discomRule at h
    split at h
    · cases h; exact refl _
    · cases h
      exact .still hu rfl rfl rfl rfl rfl (fun h => nomatch (show false = true from h)) (.inl rfl) (.inl ⟨rfl, rfl⟩)
        (noPn rfl)
  case pstart =>
    unfold pstartRule at h
    split at h
    · cases h; exact refl _
    · rename_i hs
      have hs : w.chan.state = .busSleep := not_not.mp hs
      cases h
      exact rule_frame_wake hu rfl rfl (.inl rfl) (.inl ⟨rfl, rfl⟩) (fun h => absurd rfl h)
        (fun _ => ⟨hs, rfl⟩)
  case pnconf =>
    unfold pnconfRule at h
    split at h
    · cases h; exact refl _
    · cases h
      exact .still hu rfl rfl rfl rfl rfl .inl (.inl rfl) (.inl ⟨rfl, rfl⟩) (fun _ => ⟨⟨_, rfl⟩, rfl⟩)
  case setsrb =>
    unfold setsrbRule at h
    split at h
    · cases h; exact refl _
    · obtain ⟨c, hc, h⟩ := andThen_eq_next.mp h
      cases h
      obtain ⟨tx', rfl, hc⟩ := cbvSet_eq_next hc
      exact .still hu rfl rfl rfl rfl rfl .inl (.inr (.inl ⟨_, .inr (.inr rfl), hc⟩)) (.inl ⟨rfl, rfl⟩) (noPn rfl)
  case setud =>
    unfold setudRule requireStream at h
    split at h
    · rename_i hl
      split at h
      · cases h; exact refl _
      · obtain ⟨c, hc, h⟩ := andThen_eq_next.mp h
        cases h
        have hc' := hc
        obtain ⟨_, rfl⟩ := writeTxFrom_eq_next.mp hc
        exact .still hu rfl rfl rfl rfl rfl .inl (.inr (.inr ⟨_, hl, hc'⟩)) (.inl ⟨rfl, rfl⟩) (noPn rfl)
    · cases h
  case txconf failed _ =>
    obtain ⟨t, h⟩ := txconfRule_eq_next h
    rw [h]
    exact .still hu rfl rfl rfl rfl rfl .inl (.inl rfl) (.inl ⟨rfl, rfl⟩) (noPn rfl)
  case rmreq =>
    unfold rmreqRule at h
    split at h
    · cases h; exact refl _
    · rename_i hg
      obtain ⟨c, hc, h⟩ := andThen_eq_next.mp h
      cases h
      obtain ⟨tx', rfl, hc⟩ := cbvSet_eq_next hc
      have hs : w.chan.state = .readySleep ∨ w.chan.state = .normalOperation := by
        by_contra hcon
        exact hg (.inr (not_or.mp hcon))
      have hm : legalPair w.chan.mode w.chan.state = true → w.chan.mode = .network := fun h =>
        legalPair_awake h (.inr hs.symm)
      dsimp only
      split
      · simp only [trRsRm, sc_chan, cancelRsi_chan, withChan_chan, loadBurst_eq, rearmRepeat_eq, enableTx_eq]
        refine ⟨rfl, fun h => absurd h hu, by simp, fun h => by simp only [hm h]; rfl, ?_, by simp,
          .inr (.inl ⟨_, .inr (.inl rfl), hc⟩), .inl ⟨rfl, rfl⟩, fun h => absurd rfl h, fun h => absurd rfl h,
          fun _ _ => ⟨rfl, hs⟩⟩
        cases e.glob.passive <;> simp
      · simp only [trNoRm, sc_chan, cancelRsi_chan, withChan_chan, loadBurst_eq, rearmRepeat_eq]
        exact ⟨rfl, fun h => absurd h hu, by simp, fun h => by simp only [hm h]; rfl, id, by simp,
          .inr (.inl ⟨_, .inr (.inl rfl), hc⟩), .inl ⟨rfl, rfl⟩, fun h => absurd rfl h, fun h => absurd rfl h,
          fun _ _ => ⟨rfl, hs⟩⟩
  case netreq =>
    unfold netreqRule at h
    dsimp only at h
    have hw1 : (withChan w { w.chan with requested := true }).chan = { w.chan with requested := true } := rfl
    generalize withChan w { w.chan with requested := true } = w1 at h hw1
    have hm1 : w1.chan.mode = w.chan.mode := by rw [hw1]
    have hs1 : w1.chan.state = w.chan.state := by rw [hw1]
    have asleep : w.chan.mode ≠ .network → andThen (netreqAsleep e w1) done = .next a →
        RuleFrame (.netreq (by assumption)) e.params e.glob w.chan a.work.chan := by
      intro hm h
      obtain ⟨w2, hw, h⟩ := andThen_eq_next.mp h
      cases h
      obtain ⟨tx', htx, rfl⟩ := netreqAsleep_eq_next hw
      rw [hw1] at htx ⊢
      have htx' : tx' = w.chan.tx ∨ cbvSet e.params e.params.cbvAw w.chan = .next { w.chan with tx := tx' } :=
        htx.imp id (cbvModify_congr (c := { w.chan with requested := true }) · rfl rfl)
      exact rule_frame_wake hu rfl rfl (htx'.imp_right fun h => ⟨_, .inl rfl, h⟩) (.inl ⟨rfl, rfl⟩)
        (fun _ => ⟨⟨_, rfl⟩, rfl⟩) fun hl => .inl ⟨rfl, (legalPair_asleep hl hm hu).imp And.right (.inl ·.2)⟩
    split at h
    · rename_i hm; exact asleep (by rw [← hm1, hm]; simp) h
    · rename_i hm; exact asleep (by rw [← hm1, hm]; simp) h
    · rename_i hm
      rw [hm1] at hm
      cases h
      unfold netreqAwake
      split
      · cases hs : w.chan.state <;> rw [hs1, hs] <;>
          simp only [trRsRm, trNoRm, trRmReenter, sc_chan, cancelRsi_chan, withChan_chan, loadBurst_eq, rearmRepeat_eq,
            enableTx_eq, hw1]
        all_goals
          refine ⟨rfl, fun h => absurd h hu, by simp_all, by simp_all [legalPair], ?_, by simp_all [legalPair], .inl rfl,
            .inl ⟨rfl, rfl⟩, fun _ => .inl ⟨⟨_, rfl⟩, rfl⟩, fun h => absurd rfl h, by simp_all [legalPair, MoveAllowed]⟩
          cases e.glob.passive <;> simp
      · split
        · rename_i hs
          rw [hs1] at hs
          simp only [trRsNo, sc_chan, withChan_chan, enableTx_eq, tStart, setTimer, hw1]
          refine ⟨rfl, fun h => absurd h hu, by simp, fun _ => by rw [hm]; rfl, ?_, by simp_all, .inl rfl,
            .inl ⟨rfl, rfl⟩, fun _ => .inl ⟨⟨_, rfl⟩, rfl⟩, fun h => absurd rfl h, fun _ _ => .inr ⟨hs, rfl⟩⟩
          cases e.glob.passive <;> simp
        · rw [hw1]
          exact ⟨rfl, fun h => absurd h hu, id, id, id, fun _ => id, .inl rfl, .inl ⟨rfl, rfl⟩,
            fun _ => .inl ⟨⟨_, rfl⟩, rfl⟩, fun h => absurd rfl h, fun _ h => absurd rfl h⟩
  case rxind =>
    unfold rxindRule requireStream at h
    split at h
    · rename_i hl
      obtain ⟨c, hc, h⟩ := andThen_eq_next.mp h
      cases h
      dsimp only
      have hst : ∃ rl rx', c = { w.chan with rxLast := rl, rx := rx' } :=
        ⟨_, _, (storeRx_eq_next.mp hc).2⟩
      obtain ⟨rl, rx', rfl⟩ := hst
      have hrx : ∃ f, f.length = w.chan.cfg.rxLen.toNat
          ∧ storeRx w.chan f = .next { w.chan with rxLast := rl, rx := rx' } := ⟨_, hl, hc⟩
      generalize hw2 : (if forwards e.glob = true then emit _ _ else _ : Work) = w2
      have hw2c : w2.chan = { w.chan with rxLast := rl, rx := rx' } := by
        rw [← hw2]; split <;> rfl
      unfold rxReact
      have hm2 : w2.chan.mode = w.chan.mode := by rw [hw2c]
      split
      · simp only [trBsBs, sc_chan, emit_chan, hw2c]
        exact .still hu rfl rfl rfl rfl rfl .inl (.inl rfl) (.inr hrx) (noPn rfl)
      · rename_i hm
        rw [hm2] at hm
        refine rule_frame_wake (w := w2) hu (by rw [hw2c]) (by rw [hw2c]) (.inl (by rw [hw2c]))
          (.inr (by rw [hw2c]; exact hrx)) (fun h => absurd (by rw [hw2c]) h) fun hl => ⟨rfl, .inl ?_⟩
        rcases legalPair_asleep hl (by rw [hm]; simp) hu with ⟨h, _⟩ | ⟨_, h⟩
        · rw [hm] at h; cases h
        · exact h
      · obtain ⟨mc, rs, ri, h3⟩ := rxNetwork_form e w2
        generalize rxReduced (rxRemoteSleep e (rxSelf w2)) = w3 at h3
        rw [hw2c] at h3
        have hs3 : w3.chan.state = w.chan.state := by rw [h3]
        unfold rxRepeatBit
        split
        · rw [hs3]
          cases hs : w.chan.state <;>
            simp only [trRsRm, trNoRm, sc_chan, cancelRsi_chan, withChan_chan, loadBurst_eq, rearmRepeat_eq, enableTx_eq, h3]
          case uninit => exact absurd hs hu
          all_goals
            refine ⟨rfl, fun h => absurd h hu, by simp_all, by simp_all [legalPair], ?_, by simp_all [legalPair], .inl rfl,
              .inr hrx, fun h => absurd rfl h, fun h => absurd rfl h, by simp_all [legalPair, MoveAllowed]⟩
            cases e.glob.passive <;> simp
        · rw [h3]
          exact .still hu rfl rfl rfl rfl rfl .inl (.inl rfl) (.inr hrx) (noPn rfl)
    · cases h

/-- What a tick of one timer can do to the record. -/
structure TickFrame (p : Params) (g : GlobCfg) (c c' : Channel) : Prop where
  cfg : c'.cfg = c.cfg
  initialised : c.state ≠ .uninit → c'.state ≠ .uninit
  legal : legalPair c.mode c.state = true → legalPair c'.mode c'.state = true
  passive : (c.txEnabled = true → g.passive = false) → c'.txEnabled = true → g.passive = false
  repeatTimer : (c.tm.repeatMsg.run = true → c.state = .repeatMessage) →
    c'.tm.repeatMsg.run = true → c'.state = .repeatMessage
  tx : c'.tx = c.tx ∨ cbvClr p p.cbvAw c = .next { c with tx := c'.tx } ∨ cbvClrAll p c = .next { c with tx := c'.tx }
  rx : c'.rx = c.rx ∧ c'.rxLast = c.rxLast
  requested : c'.requested = c.requested
  pnConfirmed : c'.pnConfirmed = c.pnConfirmed
  moves : legalPair c.mode c.state = true → c'.state ≠ c.state →
    (c.state = .repeatMessage ∧ (c'.state = .normalOperation ∨ c'.state = .readySleep))
      ∨ (c.state = .readySleep ∧ c'.state = .prepareBusSleep)
      ∨ (c.state = .prepareBusSleep ∧ c'.state = .busSleep)

/-- Every tick of one timer keeps within `TickFrame`. -/
theorem tick_frame (e : Env) (T : TimerSel) (w w' : Work) (h : tTick (expire e) T e.glob.tickPeriod w = .next w') :
    TickFrame e.params e.glob w.chan w'.chan := by
  have refl : ∀ c, TickFrame e.params e.glob c c := fun c => ⟨rfl, id, id, id, id, .inl rfl, ⟨rfl, rfl⟩, rfl, rfl, fun _ h => absurd rfl h⟩
  rcases tTick_cases (expire e) T e.glob.tickPeriod w with ⟨hr, h'⟩ | ⟨hr, _, h'⟩ | ⟨hr, _, h'⟩ <;> rw [h'] at h
  · cases h; exact refl _
  · cases h
    refine ⟨rfl, id, id, id, ?_, .inl rfl, ⟨rfl, rfl⟩, rfl, rfl, fun _ h => absurd rfl h⟩
    cases T <;> simp only [withChan_chan, setTimer] <;> try exact id
    exact fun h _ => h hr
  · have entry : TickFrame e.params e.glob w.chan (expiryEntry w.chan T) := by
      refine ⟨rfl, id, id, id, ?_, .inl rfl, ⟨rfl, rfl⟩, rfl, rfl, fun _ h => absurd rfl h⟩
      cases T <;> simp only [expiryEntry, setTimer] <;> try exact id
      simp
    cases T
    case timeout =>
      rcases expireTimeout_eq_next h with ⟨hs, rfl⟩ | ⟨hs, h⟩ | ⟨_, _, _, rfl⟩
      · simp only [txTimeoutNote_chan, rearmTimeout_eq, withChan_chan]
        exact ⟨rfl, id, id, id, id, .inl rfl, ⟨rfl, rfl⟩, rfl, rfl, fun _ h => absurd rfl h⟩
      · obtain ⟨tx', htx, rfl⟩ := trRsPbs_eq_next h
        simp only [withChan_chan] at hs htx ⊢
        have hs' : w.chan.state = .readySleep := hs
        refine ⟨rfl, by simp, by simp [legalPair], id, ?_, ?_, ⟨rfl, rfl⟩, rfl, rfl, ?_⟩
        · intro h1 h2; have := h1 h2; rw [hs'] at this; cases this
        · rcases htx with ⟨_, rfl⟩ | ⟨_, h⟩
          · exact .inl rfl
          · exact .inr (.inl (cbvModify_congr h rfl rfl))
        · intro _ _; exact .inr (.inl ⟨hs', rfl⟩)
      · exact entry
    case msgCycle =>
      rcases expireMsgCycle_eq_next h with ⟨_, f, ok, rest, _, _, rfl⟩ | ⟨_, rfl⟩
      · obtain ⟨mc, ic, h9⟩ := afterCycleTx_form ok (withChan w (expiryEntry w.chan .msgCycle)).chan
        simp only [h9]
        exact ⟨rfl, id, id, id, id, .inl rfl, ⟨rfl, rfl⟩, rfl, rfl, fun _ h => absurd rfl h⟩
      · exact entry
    case repeatMsg =>
      rcases expireRepeatMsg_eq_next h with ⟨hs, _, h⟩ | ⟨hs, _, h⟩ | ⟨_, rfl⟩
      · obtain ⟨tx', htx, rfl⟩ := trRmNo_eq_next h
        have hs' : w.chan.state = .repeatMessage := hs
        refine ⟨rfl, by simp, ?_, id, ?_, .inr (.inr (cbvClrAll_congr htx rfl rfl)), ⟨rfl, rfl⟩, rfl, rfl, fun _ _ => .inl ⟨hs', .inl rfl⟩⟩
        · simp only [withChan_chan, expiryEntry, setTimer, hs']; cases w.chan.mode <;> simp [legalPair]
        · by_cases hre : (withChan w (expiryEntry w.chan .repeatMsg)).chan.rsiEnabled = true
          · rw [if_pos hre]; simp [expiryEntry, setTimer]
          · rw [if_neg hre]; simp [expiryEntry, setTimer]
      · obtain ⟨tx', htx, rfl⟩ := trRmRs_eq_next h
        have hs' : w.chan.state = .repeatMessage := hs
        refine ⟨rfl, by simp, ?_, by simp, ?_, ?_, ⟨rfl, rfl⟩, rfl, rfl, fun _ _ => .inl ⟨hs', .inr rfl⟩⟩
        · simp only [withChan_chan, expiryEntry, setTimer, hs']; cases w.chan.mode <;> simp [legalPair]
        · simp only [withChan_chan, expiryEntry, setTimer]; simp
        · rcases htx with ⟨_, rfl⟩ | ⟨_, h⟩
          · exact .inl rfl
          · exact .inr (.inr (cbvClrAll_congr h rfl rfl))
      · exact entry
    case waitBusSleep =>
      rcases expireWaitBusSleep_eq_next h with ⟨hs, rfl⟩ | ⟨_, rfl⟩
      · have hs' : w.chan.state = .prepareBusSleep := hs
        simp only [trPbsBs, sc_chan, emit_chan, withChan_chan]
        refine ⟨rfl, by simp, by simp [legalPair], id, ?_, .inl rfl, ⟨rfl, rfl⟩, rfl, rfl, fun _ _ => .inr (.inr ⟨hs', rfl⟩)⟩
        intro h1 h2; have := h1 h2; rw [hs'] at this; cases this
      · exact entry
    case remoteSleep =>
      rcases expireRemoteSleep_eq_next h with ⟨_, rfl⟩ | ⟨_, rfl⟩
      · exact ⟨rfl, id, id, id, id, .inl rfl, ⟨rfl, rfl⟩, rfl, rfl, fun _ h => absurd rfl h⟩
      · exact entry


end Sys2Proof.Machine
end

