-- ==== Sys2Proof/Laws/PerInstr.lean ====
section
/-! SUPPORT. The family `WordShape`: where the fields of a command stand in its word (spec/30_encoding.md R72, R73, R75). -/

namespace Sys2Proof.Laws

open Sys2Proof

/-- The opcode R73 gives a command. -/
def opcodeOf : Instr → BitVec 5
  | .init => 0x01
  | .deinit => 0x02
  | .netreq _ => 0x03
  | .netrel _ => 0x04
  | .encom _ => 0x05
  | .discom _ => 0x06
  | .setud _ => 0x07
  | .getud _ => 0x08
  | .getnid _ => 0x09
  | .getlnid _ => 0x0A
  | .rmreq _ => 0x0B
  | .getpdu _ => 0x0C
  | .getst _ => 0x0D
  | .bussync _ => 0x0E
  | .chkrsi _ => 0x0F
  | .setsrb _ => 0x10
  | .txconf _ _ => 0x11
  | .rxind _ => 0x12
  | .pnconf _ => 0x13
  | .trigtx _ => 0x14
  | .tick => 0x15
  | .pstart _ => 0x16

/-- The three fields of a packed word read back. -/
theorem packWord_fields (op : BitVec 5) (arg : BitVec 3) (ch : ChIdx) :
    opField (packWord op arg ch) = op ∧ argField (packWord op arg ch) = arg ∧ chField (packWord op arg ch) = ch := by
  refine ⟨?_, ?_, ?_⟩
  · ext k hk
    simp [opField, packWord, BitVec.getElem_extractLsb']
    grind
  · ext k hk
    simp [argField, packWord, BitVec.getElem_extractLsb']
    grind
  · ext k hk
    simp [chField, packWord]
    grind

/-- The opcode field of a command's word is the command's opcode, the channel field is the channel or 0, and the upper two
bits of the `arg` field are 0. -/
def WordShape.Statement (i : Instr) : Prop :=
  opField (encode i) = opcodeOf i ∧ chField (encode i) = i.channel?.getD 0
    ∧ (argField (encode i)).extractLsb' 1 2 = 0

/-- The statement from the three fields of the packed word. -/
theorem wordShape_of (i : Instr) (op : BitVec 5) (arg : BitVec 3) (ch : ChIdx) (he : encode i = packWord op arg ch)
    (ho : opcodeOf i = op) (hc : i.channel?.getD 0 = ch) (ha : arg.extractLsb' 1 2 = 0) : WordShape.Statement i := by
  obtain ⟨h1, h2, h3⟩ := packWord_fields op arg ch
  exact ⟨by rw [he, h1, ho], by rw [he, h3, hc], by rw [he, h2, ha]⟩

theorem WordShape.init : WordShape.Statement .init :=
  wordShape_of _ _ _ _ rfl rfl rfl (by decide)

theorem WordShape.deinit : WordShape.Statement .deinit :=
  wordShape_of _ _ _ _ rfl rfl rfl (by decide)

theorem WordShape.netreq (ch : ChIdx) : WordShape.Statement (.netreq ch) :=
  wordShape_of _ _ _ _ rfl rfl rfl (by decide)

theorem WordShape.netrel (ch : ChIdx) : WordShape.Statement (.netrel ch) :=
  wordShape_of _ _ _ _ rfl rfl rfl (by decide)

theorem WordShape.encom (ch : ChIdx) : WordShape.Statement (.encom ch) :=
  wordShape_of _ _ _ _ rfl rfl rfl (by decide)

theorem WordShape.discom (ch : ChIdx) : WordShape.Statement (.discom ch) :=
  wordShape_of _ _ _ _ rfl rfl rfl (by decide)

theorem WordShape.setud (ch : ChIdx) : WordShape.Statement (.setud ch) :=
  wordShape_of _ _ _ _ rfl rfl rfl (by decide)

theorem WordShape.getud (ch : ChIdx) : WordShape.Statement (.getud ch) :=
  wordShape_of _ _ _ _ rfl rfl rfl (by decide)

theorem WordShape.getnid (ch : ChIdx) : WordShape.Statement (.getnid ch) :=
  wordShape_of _ _ _ _ rfl rfl rfl (by decide)

theorem WordShape.getlnid (ch : ChIdx) : WordShape.Statement (.getlnid ch) :=
  wordShape_of _ _ _ _ rfl rfl rfl (by decide)

theorem WordShape.rmreq (ch : ChIdx) : WordShape.Statement (.rmreq ch) :=
  wordShape_of _ _ _ _ rfl rfl rfl (by decide)

theorem WordShape.getpdu (ch : ChIdx) : WordShape.Statement (.getpdu ch) :=
  wordShape_of _ _ _ _ rfl rfl rfl (by decide)

theorem WordShape.getst (ch : ChIdx) : WordShape.Statement (.getst ch) :=
  wordShape_of _ _ _ _ rfl rfl rfl (by decide)

theorem WordShape.bussync (ch : ChIdx) : WordShape.Statement (.bussync ch) :=
  wordShape_of _ _ _ _ rfl rfl rfl (by decide)

theorem WordShape.chkrsi (ch : ChIdx) : WordShape.Statement (.chkrsi ch) :=
  wordShape_of _ _ _ _ rfl rfl rfl (by decide)

theorem WordShape.setsrb (ch : ChIdx) : WordShape.Statement (.setsrb ch) :=
  wordShape_of _ _ _ _ rfl rfl rfl (by decide)

theorem WordShape.txconf (failed : Bool) (ch : ChIdx) : WordShape.Statement (.txconf failed ch) :=
  wordShape_of _ _ _ _ rfl rfl rfl (by cases failed <;> decide)

theorem WordShape.rxind (ch : ChIdx) : WordShape.Statement (.rxind ch) :=
  wordShape_of _ _ _ _ rfl rfl rfl (by decide)

theorem WordShape.pnconf (ch : ChIdx) : WordShape.Statement (.pnconf ch) :=
  wordShape_of _ _ _ _ rfl rfl rfl (by decide)

theorem WordShape.trigtx (ch : ChIdx) : WordShape.Statement (.trigtx ch) :=
  wordShape_of _ _ _ _ rfl rfl rfl (by decide)

theorem WordShape.tick : WordShape.Statement .tick :=
  wordShape_of _ _ _ _ rfl rfl rfl (by decide)

theorem WordShape.pstart (ch : ChIdx) : WordShape.Statement (.pstart ch) :=
  wordShape_of _ _ _ _ rfl rfl rfl (by decide)

end Sys2Proof.Laws
end

