-- ==== Sys2Proof/Tests/Slice0.lean ====
section
/-! SUPPORT. Small checks of the model: words, one command on one state, and for every statement with hypotheses a state that
meets them. Expected values are those of spec/95_test_vectors.md, whose vector each test names. -/

namespace Sys2Proof.Tests

open Sys2Proof Sys2Proof.Machine

-- One thread: many small kernel evaluations at once ask for more threads than the check's memory limit allows.
set_option Elab.async false

/-! ### States -/

/-- A channel record with no optional field and every unlisted register 0. -/
def baseChan : ChanCfg := { ChanCfg.zero with nidPos := 0xFF, cbvPos := 0xFF, txLen := 1, rxLen := 1, rxDepth := 1 }

/-- Configuration A of spec/95_test_vectors.md. -/
def cfgA : CfgRecord :=
  ⟨{ GlobCfg.zero with stateChangeInd := true, userDataEn := true, tickPeriod := 10 },
   [{ baseChan with
        ndEn := true, nidEn := true, awEn := true, tTimeout := 30, tMsgCycle := 20, tMsgOffset := 5
        tRepeat := 40, tWbs := 20, nidPos := 0, cbvPos := 1, nodeId := 0x42, txLen := 8, rxLen := 8, rxDepth := 2 }]⟩

/-- Configuration C. -/
def cfgC : CfgRecord :=
  ⟨{ GlobCfg.zero with tickPeriod := 10 },
   [{ baseChan with
        immTxEn := true, multiReqEn := true, awEn := true, tTimeout := 100, tMsgCycle := 50
        tRepeat := 60, tWbs := 20, tImmCycle := 10, immTxCount := 3, cbvPos := 0, txLen := 2, rxLen := 2 }]⟩

/-- Configuration D. -/
def cfgD : CfgRecord :=
  ⟨{ GlobCfg.zero with rsiSupport := true, userDataEn := true, coordSync := true, pnGlobal := true, tickPeriod := 10 },
   [{ baseChan with
        blrEn := true, pnEn := true, tTimeout := 50, tMsgCycle := 30, tMsgOffset := 10, tRepeat := 20
        tWbs := 10, tRsi := 20, tReduced := 10, cbvPos := 0, txLen := 4, rxLen := 4, rxDepth := 3 },
    { baseChan with tTimeout := 20, tMsgCycle := 10, tRepeat := 10, tWbs := 10 }]⟩

/-- Configuration E. -/
def cfgE : CfgRecord :=
  ⟨{ GlobCfg.zero with passive := true, stateChangeInd := true, tickPeriod := 10 },
   [{ baseChan with tTimeout := 20, tMsgCycle := 10, tRepeat := 20, tWbs := 30 }]⟩

/-- The block after hardware reset with a record on the `cfg` port. -/
def fresh (r : CfgRecord) : State := { State.resetOf r.chans.length with operands := ⟨0xFF, [], r, [true, true]⟩ }

/-- The block after INIT with a record (R150). -/
def block (r : CfgRecord) : State :=
  { fresh r with glob := r.glob, chans := r.chans.map fun f => initChannel Config.params r.glob f .reset }

/-- Change channel `k`. -/
def at' (k : Nat) (f : Channel → Channel) (s : State) : State := { s with chans := s.chans.modify k f }

/-- A channel in a state of Network mode, transmitting or not. -/
def awake (st : NmState) (tx : Bool) (c : Channel) : Channel := { c with mode := .network, state := st, txEnabled := tx }

/-- A channel in Prepare-Bus-Sleep. -/
def preparing (c : Channel) : Channel := { c with mode := .prepareBusSleep, state := .prepareBusSleep }

/-- Other bytes on `din`. -/
def din (d : List Byte) (s : State) : State := { s with operands := { s.operands with din := d } }

/-- Other bus answers. -/
def back (b : List Bool) (s : State) : State := { s with operands := { s.operands with back := b } }

/-- A word next on the port. -/
def given (w : CmdWord) (s : State) : State := { s with port := [.command ⟨w, s.operands⟩] }

/-- Channel 0 of a block. -/
def first (s : State) : Channel := s.chans.headD .reset

/-- A channel as the work of a handler, with its environment. -/
def work (s : State) : Work := startWork s (first s)

/-! ### What a test looks at -/

/-- The response. -/
def reply : Out State → Option Response
  | .next s => s.rsp
  | _ => none

/-- Channel `k`. -/
def chan (k : Nat) : Out State → Option Channel
  | .next s => s.chans[k]?
  | _ => none

/-- Whether the outcome is a next state. -/
def goesOn {α : Type} : Out α → Bool
  | .next _ => true
  | _ => false

/-- The five timers in the order of the vectors. -/
def timers (c : Channel) : List (Bool × Nat) :=
  [c.tm.timeout, c.tm.msgCycle, c.tm.repeatMsg, c.tm.waitBusSleep, c.tm.remoteSleep].map fun t => (t.run, t.cnt.toNat)

/-- The transmit buffer. -/
def frame (c : Channel) : List Byte := (readCells c.tx (txAddr 0) c.cfg.txLen.toNat).getD []

/-- A response with code OK. -/
def okay (v : Byte) (d : List Byte) (e : List Event) : Option Response := some ⟨.ok, v, d, e⟩

/-- A response with code `E_PRECOND`. -/
def precond : Option Response := some ⟨.ePrecond, 0, [], []⟩

/-! ### Well-formedness, legality -/

theorem test_wf_refuses_missing_channel : Instr.wf 1 (.netreq 1) = false ∧ Instr.wf 255 (.getst 0xFF) = false := by decide +kernel
theorem test_wf_accepts_last_channel : Instr.wf 2 (.netreq 1) = true ∧ Instr.wf 256 (.getst 0xFF) = true := by decide +kernel
theorem test_params_refused :
    ({ Config.params with maxLen := 0 } : Params).wf = false ∧ ({ Config.params with absent := 7 } : Params).wf = false
      ∧ ({ Config.params with cbvAw := 0 } : Params).wf = false ∧ ({ Config.params with tickOrder := [.timeout] } : Params).wf = false
      ∧ Config.params.wf = true := by decide +kernel
/-- Section 3.3: the two illegal rows, then one record for each other part of R36. -/
theorem test_legalChan_refuses :
    ([{ baseChan with nidEn := true, nidPos := 0, cbvPos := 1 },
      { baseChan with nidEn := true, nidPos := 1, txLen := 8, rxLen := 8 },
      { baseChan with txLen := 0 }, { baseChan with txLen := 9 }, { baseChan with rxLen := 0 }, { baseChan with rxLen := 9 },
      { baseChan with rxDepth := 0 }, { baseChan with nidEn := true },
      { baseChan with nidEn := true, nidPos := 0, cbvPos := 0, txLen := 8, rxLen := 8 }].map (legalChan Config.params)).any id
        = false := by decide +kernel
theorem test_legalCfg_of_the_examples : ∀ r ∈ [cfgA, cfgC, cfgD, cfgE], legalCfg Config.params r = true := by decide +kernel
theorem test_legalCfg_refuses_immRestart :
    legalCfg Config.params { cfgA with glob := { cfgA.glob with immRestart := true } } = false := by decide +kernel

/-! ### Words, written out bit by bit: `op`, `arg`, `ch` -/

theorem test_decode_init : decode 0b00001_000_00000000 = .ok .init := rfl
theorem test_decode_deinit : decode 0b00010_000_00000000 = .ok .deinit := rfl
theorem test_decode_netreq : decode 0b00011_000_00000001 = .ok (.netreq 1) := rfl
theorem test_decode_netrel : decode 0b00100_000_00000001 = .ok (.netrel 1) := rfl
theorem test_decode_encom : decode 0b00101_000_00000001 = .ok (.encom 1) := rfl
theorem test_decode_discom : decode 0b00110_000_00000001 = .ok (.discom 1) := rfl
theorem test_decode_setud : decode 0b00111_000_00000001 = .ok (.setud 1) := rfl
theorem test_decode_getud : decode 0b01000_000_00000001 = .ok (.getud 1) := rfl
theorem test_decode_getnid : decode 0b01001_000_10000000 = .ok (.getnid 128) := rfl
theorem test_decode_getlnid : decode 0b01010_000_00000001 = .ok (.getlnid 1) := rfl
theorem test_decode_rmreq : decode 0b01011_000_00000001 = .ok (.rmreq 1) := rfl
theorem test_decode_getpdu : decode 0b01100_000_00000001 = .ok (.getpdu 1) := rfl
theorem test_decode_getst : decode 0b01101_000_11111111 = .ok (.getst 0xFF) := rfl
theorem test_decode_bussync : decode 0b01110_000_00000001 = .ok (.bussync 1) := rfl
theorem test_decode_chkrsi : decode 0b01111_000_00000001 = .ok (.chkrsi 1) := rfl
theorem test_decode_setsrb : decode 0b10000_000_00000001 = .ok (.setsrb 1) := rfl
theorem test_decode_txconf_ok : decode 0b10001_000_00000001 = .ok (.txconf false 1) := rfl
theorem test_decode_txconf_failed : decode 0b10001_001_00000001 = .ok (.txconf true 1) := rfl
theorem test_decode_rxind : decode 0b10010_000_00000001 = .ok (.rxind 1) := rfl
theorem test_decode_pnconf : decode 0b10011_000_00000001 = .ok (.pnconf 1) := rfl
theorem test_decode_trigtx : decode 0b10100_000_00000001 = .ok (.trigtx 1) := rfl
theorem test_decode_tick : decode 0b10101_000_00000000 = .ok .tick := rfl
theorem test_decode_pstart : decode 0b10110_000_00000001 = .ok (.pstart 1) := rfl
/-- Section 3.7. -/
theorem test_decode_reserved_opcodes :
    ([0x0000, 0xB800, 0xF800, 0xFFFF] : List CmdWord).map decode = List.replicate 4 (.error .reservedOpcode) := rfl
theorem test_decode_reserved_arg :
    ([0x1900, 0x0900, 0x8A00, 0x8C00] : List CmdWord).map decode = List.replicate 4 (.error .reservedArg) := rfl
theorem test_decode_reserved_channel :
    ([0x0801, 0x1001, 0xA801] : List CmdWord).map decode = List.replicate 3 (.error .reservedChannel) := rfl
/-- The words of section 3.7 for channel 1. -/
theorem test_encode_channel_one :
    ([.netreq 1, .netrel 1, .encom 1, .discom 1, .setud 1, .getud 1, .getnid 1, .getlnid 1, .rmreq 1, .getpdu 1, .getst 1,
      .bussync 1, .chkrsi 1, .setsrb 1, .txconf false 1, .txconf true 1, .rxind 1, .pnconf 1, .trigtx 1, .pstart 1, .init,
      .deinit, .tick] : List Instr).map encode
    = [0x1801, 0x2001, 0x2801, 0x3001, 0x3801, 0x4001, 0x4801, 0x5001, 0x5801, 0x6001, 0x6801, 0x7001, 0x7801, 0x8001,
       0x8801, 0x8901, 0x9001, 0x9801, 0xA001, 0xB001, 0x0800, 0x1000, 0xA800] := by decide +kernel
theorem test_decodeTableWord : decodeTableWord 16 0x1801 = some (.netreq 1) ∧ decodeTableWord 16 0 = none := by decide +kernel
/-- Section 3.7: a channel that is not there, and an instruction placed as the next input. -/
theorem test_step_missing_channel : reply (step (given 0x1801 (block cfgA))) = some ⟨.eIllegal, 0, [], []⟩ := by decide +kernel
theorem test_step_withFetchWord :
    reply (step (State.reset.withFetchWord 16 0x0800)) = okay 0 [] [] ∧
    reply (step (State.reset.withFetchWord 16 0x6800)) = okay 0x00 [] [] := by decide +kernel

/-! ### One command on one state -/

/-- W1. -/
theorem test_init :
    (chan 0 (exec .init (fresh cfgA))).map (fun c => (c.mode, c.state, c.rxLast, timers c))
      = some (.busSleep, .busSleep, 0xFF, List.replicate 5 (false, 0)) := by decide +kernel
/-- W1: the frames of configurations A and D. -/
theorem test_init_frames :
    (chan 0 (exec .init (fresh cfgA))).map frame = some [0x42, 0, 0xFF, 0xFF, 0xFF, 0xFF, 0xFF, 0xFF]
      ∧ (chan 0 (exec .init (fresh cfgD))).map frame = some [0, 0xFF, 0xFF, 0xFF]
      ∧ (chan 1 (exec .init (fresh cfgD))).map (fun c => (frame c, c.rsiEnabled)) = some ([0xFF], true) := by decide +kernel
/-- W2. -/
theorem test_deinit : (chan 0 (exec .deinit (block cfgA))).map (·.state) = some .uninit := by decide +kernel
/-- K21. -/
theorem test_deinit_refused : reply (exec .deinit (at' 0 (awake .normalOperation true) (block cfgD))) = precond := by decide +kernel
/-- K1. -/
theorem test_netreq :
    (chan 0 (exec (.netreq 0) (block cfgA))).map (fun c => (c.state, timers c, (frame c).take 2))
      = some (.repeatMessage, [(true, 30), (true, 5), (true, 40), (false, 0), (false, 0)], [0x42, 0x10]) := by decide +kernel
/-- K6. -/
theorem test_netreq_policy :
    (chan 0 (exec (.netreq 0) (at' 0 (awake .readySleep false) (block cfgC)))).map
        (fun c => (c.state, c.txEnabled, c.immTxCnt, c.tm.repeatMsg.cnt)) = some (.repeatMessage, true, 3, 60) := by decide +kernel
/-- W3, the row of Normal-Operation. -/
theorem test_netrel :
    reply (exec (.netrel 0) (at' 0 (awake .normalOperation true) (block cfgA)))
      = okay 0 [] [.stateChange 0 .normalOperation .readySleep] := by decide +kernel
/-- W3, the row of Repeat-Message. -/
theorem test_netrel_elsewhere :
    (chan 0 (exec (.netrel 0) (at' 0 (fun c => { awake .repeatMessage true c with requested := true }) (block cfgA)))).map
        (fun c => (c.state, c.requested)) = some (.repeatMessage, false) := by decide +kernel
/-- K9 and K10. -/
theorem test_discom :
    (chan 0 (exec (.discom 0) (at' 0 (fun c => { awake .normalOperation true c with
        tm := { c.tm with timeout := ⟨true, 50⟩, msgCycle := ⟨true, 10⟩ } }) (block cfgD)))).map
      (fun c => (c.txEnabled, c.rsiEnabled, (timers c).take 2)) = some (false, false, [(false, 50), (false, 10)]) := by decide +kernel
theorem test_encom :
    (chan 0 (exec (.encom 0) (at' 0 (fun c => { awake .normalOperation false c with
        rsiEnabled := false
        tm := { c.tm with timeout := ⟨false, 50⟩, msgCycle := ⟨false, 10⟩ } }) (block cfgD)))).map
      (fun c => (c.txEnabled, c.rsiEnabled, (timers c).take 2)) = some (true, true, [(true, 50), (true, 10)]) := by decide +kernel
/-- M5. -/
theorem test_setud :
    (chan 0 (exec (.setud 0) (din [0xA1, 0xA2, 0xA3] (block cfgD)))).map frame = some [0, 0xA1, 0xA2, 0xA3] := by decide +kernel
/-- M7. -/
theorem test_setud_external :
    reply (exec (.setud 0) (din [0xA1, 0xA2, 0xA3]
      { block cfgD with glob := { cfgD.glob with udExternal := true } })) = precond := by decide +kernel

/-- Configuration A with the frame of M4 as the newest. -/
def received : State :=
  at' 0 (fun c => { c with rxLast := 1, rx := writeCells [] (rxAddr 1 0) [0x17, 1, 9, 9, 9, 9, 9, 9] }) (block cfgA)

/-- M4. -/
theorem test_getnid : reply (exec (.getnid 0) received) = okay 0x17 [] [] := by decide +kernel
theorem test_getpdu : reply (exec (.getpdu 0) received) = okay 0 [0x17, 1, 9, 9, 9, 9, 9, 9] [] := by decide +kernel
theorem test_getud : reply (exec (.getud 0) received) = okay 0 [9, 9, 9, 9, 9, 9] [] := by decide +kernel
/-- M2, M3. -/
theorem test_getlnid : reply (exec (.getlnid 0) (block cfgA)) = okay 0x42 [] [] := by decide +kernel
theorem test_getnid_no_frame : reply (exec (.getnid 0) (block cfgA)) = precond := by decide +kernel
/-- K20. -/
theorem test_rmreq :
    (chan 0 (exec (.rmreq 0) (at' 0 (awake .normalOperation true) (block cfgA)))).map
        (fun c => (c.state, (frame c).take 2, ((timers c).drop 1).take 2))
      = some (.repeatMessage, [0x42, 0x01], [(true, 5), (true, 40)]) := by decide +kernel
/-- W7. -/
theorem test_rmreq_refused : reply (exec (.rmreq 0) (at' 0 (awake .repeatMessage true) (block cfgA))) = precond := by decide +kernel
/-- Section 3.4, the row of GETST. -/
theorem test_getst :
    reply (exec (.getst 0) (at' 0 (awake .readySleep false) (block cfgA))) = okay 0x16 [] []
      ∧ reply (exec (.getst 0) (at' 0 preparing (block cfgA))) = okay 0x09 [] [] := by decide +kernel
/-- K13. -/
theorem test_bussync_fail :
    reply (exec (.bussync 0) (back [false] (at' 0 (awake .repeatMessage true) (block cfgC))))
      = some ⟨.eBus, 0, [], [.txReq 0 [0x00, 0xFF]]⟩ := by decide +kernel
theorem test_bussync_ok :
    reply (exec (.bussync 0) (at' 0 (awake .repeatMessage true) (block cfgC))) = okay 0 [] [.txReq 0 [0x00, 0xFF]] := by decide +kernel
/-- K15. -/
theorem test_chkrsi :
    reply (exec (.chkrsi 0) (at' 0 (fun c => { awake .normalOperation true c with rsiIndicated := true }) (block cfgD)))
      = okay 1 [] [] := by decide +kernel
/-- K17. -/
theorem test_setsrb : (chan 0 (exec (.setsrb 0) (block cfgD))).map frame = some [0x08, 0xFF, 0xFF, 0xFF] := by decide +kernel
/-- K18. -/
theorem test_setsrb_absent : (chan 1 (exec (.setsrb 1) (block cfgD))).map frame = some [0xFF] := by decide +kernel
/-- K19. -/
theorem test_pnconf : (chan 0 (exec (.pnconf 0) (block cfgD))).map (·.pnConfirmed) = some true := by decide +kernel
theorem test_pnconf_refused : reply (exec (.pnconf 1) (block cfgD)) = precond := by decide +kernel
/-- M10, M11. -/
theorem test_txconf :
    (chan 0 (exec (.txconf false 0) (at' 0 (awake .repeatMessage true) (block cfgA)))).map (·.tm.timeout)
      = some ⟨true, 30⟩ ∧
    (chan 0 (exec (.txconf true 0) (at' 0 (awake .repeatMessage true) (block cfgA)))).map (·.tm.timeout)
      = some ⟨false, 0⟩ := by decide +kernel
/-- M8. -/
theorem test_txconf_forwarded :
    reply (exec (.txconf true 0) { block cfgD with glob := { cfgD.glob with udExternal := true } })
      = okay 0 [] [.udTxConf 0 true] := by decide +kernel
/-- M14. -/
theorem test_rxind_busSleep :
    reply (exec (.rxind 0) (din [0x17, 0, 1, 2, 3, 4, 5, 6] (block cfgA)))
      = okay 0 [] [.networkStart 0, .stateChange 0 .busSleep .busSleep] := by decide +kernel
/-- M22. -/
theorem test_rxind_repeat_bit :
    (chan 0 (exec (.rxind 0) (din [1, 0, 0, 0] (at' 0 (fun c => { awake .normalOperation true c with
        blrActive := true, rsiIndicated := true
        tm := { c.tm with timeout := ⟨true, 20⟩, msgCycle := ⟨true, 10⟩, remoteSleep := ⟨false, 10⟩ } }) (block cfgD))))).map
      (fun c => (c.state, c.blrActive, c.rsiIndicated, timers c))
      = some (.repeatMessage, false, false, [(true, 50), (true, 10), (true, 20), (false, 0), (true, 20)]) := by decide +kernel
/-- W8. -/
theorem test_trigtx : reply (exec (.trigtx 0) (block cfgA)) = okay 0 [0x42, 0, 0xFF, 0xFF, 0xFF, 0xFF, 0xFF, 0xFF] [] := by decide +kernel
theorem test_trigtx_short :
    reply (exec (.trigtx 0) { block cfgA with operands := { Operands.empty with cap := 7 } }) = precond := by decide +kernel
/-- H10. -/
theorem test_tick_order :
    reply (exec .tick (at' 0 (fun c => { awake .repeatMessage true c with
        tm := { c.tm with timeout := ⟨true, 10⟩, msgCycle := ⟨true, 10⟩, repeatMsg := ⟨true, 20⟩ } }) (block cfgA)))
      = okay 0 [] [.txTimeout 0, .txReq 0 [0x42, 0, 0xFF, 0xFF, 0xFF, 0xFF, 0xFF, 0xFF]] := by decide +kernel
/-- H14. -/
theorem test_tick_two_transitions :
    reply (exec .tick (at' 0 (fun c => { awake .readySleep false c with
        tm := { c.tm with timeout := ⟨true, 10⟩ } }) (block cfgD)))
      = okay 0 [] [.prepareBusSleep 0, .busSleep 0] := by decide +kernel
/-- P2, step 4. -/
theorem test_pstart :
    (chan 0 (exec (.pstart 0) (block cfgA))).map (fun c => (c.state, c.requested, c.txEnabled, (frame c).take 2))
      = some (.repeatMessage, false, true, [0x42, 0x00]) := by decide +kernel
theorem test_pstart_refused : reply (exec (.pstart 0) (at' 0 preparing (block cfgA))) = precond := by decide +kernel

/-! ### Micro-operations -/

/-- T2, T4, T12, T13: the countdown and whether the handler ran. -/
def ticked (run : Bool) (cnt e : Dur) : Option ((Bool × Nat) × Nat) :=
  match tTick (fun _ w => .next (emit (.rsiInd 0) w)) .timeout e ⟨setTimer .reset .timeout ⟨run, cnt⟩, [], []⟩ with
  | .next w => some (((getTimer w.chan .timeout).run, (getTimer w.chan .timeout).cnt.toNat), w.events.length)
  | _ => none

/-- T1 (first tick), T2, T5, T6, T7, T12, T13. -/
theorem test_tTick :
    ticked true 25 10 = some ((true, 15), 0) ∧ ticked true 10 10 = some ((false, 10), 1)
      ∧ ticked true 30 0 = some ((true, 30), 0) ∧ ticked true 0 0 = some ((false, 0), 1)
      ∧ ticked false 7 1000 = some ((false, 7), 0) ∧ ticked true 0xFFFFFFFF 0xFFFFFFFF = some ((false, 4294967295), 1)
      ∧ ticked true 0xFFFFFFFF 1 = some ((true, 4294967294), 0) := by decide +kernel
/-- B2, B4, B8, B9, B10. -/
theorem test_bits :
    setBit (setBit 0x10 0) 3 = 0x19 ∧ clearBit 0x19 4 = 0x09
      ∧ cbvRxBit Config.params (first (block cfgA)).cfg [0x17, 0x01, 9, 9, 9, 9, 9, 9] 0 = true
      ∧ cbvRxBit Config.params (first (block cfgA)).cfg [0x17, 0xFE, 9, 9, 9, 9, 9, 9] 0 = false
      ∧ cbvRxBit Config.params baseChan [0x55] 0 = false := by decide +kernel
/-- R81: what the event port and the `btx` port carry. -/
theorem test_ports :
    (Event.stateChange 3 .readySleep .normalOperation).code = 5 ∧ (Event.stateChange 3 .readySleep .normalOperation).argA = 5
      ∧ (Event.udTxConf 2 true).argA = 1
      ∧ btxFrames [.txReq 1 [0xAA, 0xBB], .rsiInd 1] = [(1, [(0xAA, false), (0xBB, true)])] := by decide +kernel

/-! ### For every statement with hypotheses, states that meet them -/

/-- The parameters of R7. -/
def par : Params := Config.params

/-- Configuration A in Normal-Operation, Ready-Sleep, Repeat-Message. -/
def aNO : State := at' 0 (awake .normalOperation true) (block cfgA)
def aRS : State := at' 0 (awake .readySleep false) (block cfgA)
def aRM : State := at' 0 (awake .repeatMessage true) (block cfgA)
/-- Configuration C in the same three states. -/
def cNO : State := at' 0 (awake .normalOperation true) (block cfgC)
def cRS : State := at' 0 (awake .readySleep false) (block cfgC)
def cRM : State := at' 0 (awake .repeatMessage true) (block cfgC)
/-- Configuration A in Prepare-Bus-Sleep. -/
def aPBS : State := at' 0 preparing (block cfgA)
/-- One timer of channel 0 due. -/
def due (T : TimerSel) (s : State) : State := at' 0 (fun c => setTimer c T ⟨true, 10⟩) s

theorem witness_EncodeOfDecodeIsTheWord : decode 0xA800 = .ok .tick := rfl

theorem witness_StepRunsTheDecodedCommand :
    (given 0x1800 (block cfgA)).port = [.command ⟨0x1800, (block cfgA).operands⟩] ∧ decode 0x1800 = .ok (.netreq 0)
      ∧ Instr.wf (block cfgA).nCh (.netreq 0) = true := by decide +kernel

theorem witness_ReservedOpcodesAreAnsweredIllegal :
    (opField 0x0000).toNat = 0 ∧ (opField 0xB800).toNat = 0x17 ∧ (opField 0xFFFF).toNat = 0x1F
      ∧ decode 0x0800 = .ok .init := by decide +kernel

theorem witness_ReservedFieldsAreAnsweredIllegal :
    ((opField 0x1900).toNat ≠ 0x11 ∧ argField 0x1900 ≠ 0)
      ∧ ((opField 0x8A00).toNat = 0x11 ∧ (argField 0x8A00).extractLsb' 1 2 ≠ 0)
      ∧ ((opField 0x0801).toNat = 0x01 ∧ chField 0x0801 ≠ 0) ∧ ((opField 0x10FF).toNat = 0x02 ∧ chField 0x10FF ≠ 0)
      ∧ ((opField 0xA801).toNat = 0x15 ∧ chField 0xA801 ≠ 0)
      ∧ ((opField 0x6801).toNat = 0x0D ∧ (block cfgA).nCh ≤ (chField 0x6801).toNat) := by decide +kernel

theorem witness_HardwareResetLeavesTheListedValues :
    Channel.reset ∈ (State.resetWith par 256 [.rst]).chans ∧ (State.resetWith par 1 [.rst]).port = [.rst] := by
  decide +kernel

theorem witness_UninitRefusesAllButGetstAndInit :
    (fresh cfgA).chans[(0 : ChIdx).toNat]? = some Channel.reset ∧ Channel.reset.state = .uninit
      ∧ Instr.channel? (.rxind 0) = some 0 ∧ Instr.rxind 0 ≠ .getst 0
      ∧ (fresh cfgA).operands.cfg.chans.length = (fresh cfgA).nCh
      ∧ legalCfg (fresh cfgA).params (fresh cfgA).operands.cfg = true := by decide +kernel

/-- One refused command, and one transmit request answered with failure. -/
theorem witness_FailedCommandsChangeNothing :
    (∃ t, exec (.pstart 0) aPBS = .next t ∧ t.rsp = some ⟨.ePrecond, 0, [], []⟩)
      ∧ (∃ t, exec (.bussync 0) (back [false] cRM) = .next t ∧ t.rsp = some ⟨.eBus, 0, [], [.txReq 0 [0x00, 0xFF]]⟩) :=
  ⟨⟨_, rfl, by decide +kernel⟩, ⟨_, rfl, by decide +kernel⟩⟩

/-- The last channel of a block of 256, and a stream of exactly the length. -/
theorem witness_PrecondExactlyInTheListedCases :
    Instr.wf (State.resetOf 256).nCh (.netreq 0xFF) = true ∧ StreamFits (State.resetOf 256) (.netreq 0xFF)
      ∧ Instr.wf (block cfgD).nCh (.setud 0) = true ∧ StreamFits (din [1, 2, 3] (block cfgD)) (.setud 0)
      ∧ (∃ t, exec (.pnconf 0) (block cfgD) = .next t ∧ t.rsp = some ⟨.ok, 0, [], []⟩) := by
  refine ⟨by decide +kernel, trivial, by decide +kernel, ?_, ⟨_, rfl, by decide +kernel⟩⟩
  intro c hc
  have h : (din [1, 2, 3] (block cfgD)).chans[(0 : ChIdx).toNat]? = some (first (block cfgD)) := by decide +kernel
  obtain rfl := Option.some.inj (h.symm.trans hc)
  decide +kernel

theorem witness_LegalPositionsAreTheFivePairs :
    par.wf = true ∧ legalChan par baseChan = true
      ∧ legalChan par { baseChan with nidEn := true, nidPos := 0 } = true ∧ legalChan par { baseChan with cbvPos := 0 } = true
      ∧ legalChan par { baseChan with nidEn := true, nidPos := 0, cbvPos := 1, txLen := 2, rxLen := 8 } = true
      ∧ legalChan par { baseChan with nidEn := true, nidPos := 1, cbvPos := 0, txLen := 8, rxLen := 2 } = true := by
  decide +kernel

theorem witness_InitLeavesEveryChannelAsListed :
    ∀ r ∈ [cfgA, cfgD], (fresh r).operands.cfg.chans.length = (fresh r).nCh
      ∧ legalCfg (fresh r).params (fresh r).operands.cfg = true := by decide +kernel

theorem witness_InitIsIdempotent : MemInv (fresh cfgA) ∧ ∃ t, exec .init (fresh cfgA) = .next t :=
  ⟨by decide +kernel, ⟨_, rfl⟩⟩

theorem witness_InitRefusesWhatIsNoLegalRecord :
    { fresh cfgA with operands := (fresh cfgD).operands }.operands.cfg.chans.length ≠ (fresh cfgA).nCh
      ∧ legalCfg par ⟨GlobCfg.zero, [ChanCfg.zero]⟩ = false := by decide +kernel

theorem witness_DeinitIsAllOrNothing :
    (∀ c ∈ (block cfgD).chans, c.state = .busSleep)
      ∧ (∃ c ∈ (at' 0 (awake .normalOperation true) (block cfgD)).chans, c.state ≠ .busSleep) := by decide +kernel

theorem witness_NetreqWakesASleepingChannel :
    ∀ s ∈ [block cfgA, aPBS], Addressed s 0 (first s) ∧ (first s).mode ≠ .network ∧ (first s).cfg.awEn = true
      ∧ CbvReadable s.params (first s) 0 := by decide +kernel
/-- Without the active-wakeup feature. -/
theorem witness_NetreqWakesASleepingChannel_plain :
    Addressed (block cfgE) 0 (first (block cfgE)) ∧ (first (block cfgE)).mode ≠ .network
      ∧ (first (block cfgE)).cfg.awEn = false := by decide +kernel

theorem witness_NetreqReentersRepeatMessageUnderThePolicy :
    ∀ s ∈ [cRS, cNO, cRM], Addressed s 0 (first s) ∧ (first s).mode = .network ∧ (first s).cfg.multiReqEn = true
      ∧ (first s).cfg.immTxEn = true := by decide +kernel

theorem witness_NetreqWithoutThePolicyResumesOrOnlyLatches :
    ∀ s ∈ [aRS, aNO, aRM], Addressed s 0 (first s) ∧ (first s).mode = .network
      ∧ ¬ ((first s).cfg.multiReqEn = true ∧ (first s).cfg.immTxEn = true) := by decide +kernel

theorem witness_NetrelReleasesFromNormalOperationOnly :
    ∀ s ∈ [aNO, aRM, aRS, block cfgA, aPBS], Addressed s 0 (first s) := by decide +kernel

theorem witness_PstartWakesFromBusSleepOnly :
    Addressed (block cfgA) 0 (first (block cfgA)) ∧ (first (block cfgA)).state = .busSleep
      ∧ Addressed aPBS 0 (first aPBS) ∧ (first aPBS).state ≠ .busSleep := by decide +kernel

/-- The message-cycle timer of `aRS` is stopped, so that both parts apply. -/
theorem witness_DiscomFreezesAndEncomResumes :
    Addressed aRS 0 (first aRS) ∧ (first aRS).mode = .network ∧ aRS.glob.passive = false
      ∧ (first aRS).tm.msgCycle.run = false := by decide +kernel

theorem witness_RmreqSetsTheBitAndRepeats :
    ∀ s ∈ [aRS, aNO], Addressed s 0 (first s) ∧ (first s).cfg.ndEn = true
      ∧ ((first s).state = .readySleep ∨ (first s).state = .normalOperation) ∧ CbvReadable s.params (first s) 0 := by
  decide +kernel

theorem witness_BussyncTransmitsTheBufferAsItStands :
    Addressed aNO 0 (first aNO) ∧ (first aNO).txEnabled = true ∧ aNO.glob.passive = false ∧ TxReadable (first aNO)
      ∧ aNO.operands.back = [true, true] := by decide +kernel

theorem witness_FlagAndStateReadersAnswerTheirValue :
    (let s := at' 0 (awake .readySleep false) (block cfgD)
     s.chans[(0 : ChIdx).toNat]? = some (first s) ∧ s.glob.rsiSupport = true ∧ (first s).state = .readySleep
       ∧ legalPair (first s).mode (first s).state = true)
      ∧ (first (block cfgA)).state ≠ .uninit ∧ (first (block cfgA)).cfg.nidEn = true := by decide +kernel

theorem witness_SetsrbAndPnconfSetOneBit :
    let s := block cfgD
    Addressed s 0 (first s) ∧ s.glob.coordSync = true ∧ CbvReadable s.params (first s) 0 ∧ s.glob.pnGlobal = true
      ∧ (first s).cfg.pnEn = true := by decide +kernel

/-- Three bytes of user data, and none: both fields present in a frame of two bytes (section 3.3). -/
theorem witness_SetudWritesTheUserDataRegionOnly :
    ∀ s ∈ [din [0xA1, 0xA2, 0xA3] (block cfgD),
        block { cfgA with chans := cfgA.chans.map fun c => { c with txLen := 2 } }],
      Addressed s 0 (first s) ∧ s.glob.userDataEn = true ∧ s.glob.udExternal = false
        ∧ udOff s.params (first s).cfg ≤ (first s).cfg.txLen.toNat
        ∧ s.operands.din.length = (first s).cfg.txLen.toNat - udOff s.params (first s).cfg := by decide +kernel

/-- The newest frame stands in the last slot of the ring. -/
theorem witness_FrameReadersAnswerTheNewestFrame :
    Addressed received 0 (first received) ∧ RxReadable (first received) ∧ received.glob.userDataEn = true
      ∧ udOff par (first received).cfg ≤ (first received).cfg.rxLen.toNat ∧ (first received).cfg.nidEn = true
      ∧ (first received).cfg.nidPos ≠ par.absent ∧ (first received).cfg.nidPos.toNat < (first received).cfg.rxLen.toNat := by
  decide +kernel

/-- A capacity of exactly the frame, and of one byte less. -/
theorem witness_TrigtxCopiesTheFrameOrNothing :
    ∀ s ∈ [{ block cfgA with operands := { Operands.empty with cap := 8 } },
        { block cfgA with operands := { Operands.empty with cap := 7 } }],
      Addressed s 0 (first s) ∧ TxReadable (first s)
        ∧ ((first s).cfg.txLen.toNat = s.operands.cap.toNat ∨ s.operands.cap.toNat + 1 = (first s).cfg.txLen.toNat) := by
  decide +kernel

/-- W5. -/
theorem witness_UserDataRoundTrip :
    Addressed (block cfgD) 0 (first (block cfgD)) ∧ legalChan par (first (block cfgD)).cfg = true
      ∧ (first (block cfgD)).cfg.rxLen = (first (block cfgD)).cfg.txLen ∧ (block cfgD).glob.userDataEn = true
      ∧ (block cfgD).glob.udExternal = false
      ∧ ∃ t u, exec (.setud 0) (din [0x11, 0x22, 0x33] (block cfgD)) = .next t ∧ exec (.trigtx 0) t = .next u
          ∧ u.rsp = some ⟨.ok, 0, [0x00, 0x11, 0x22, 0x33], []⟩ :=
  ⟨by decide +kernel, by decide +kernel, by decide +kernel, by decide +kernel, by decide +kernel,
    ⟨_, _, rfl, rfl, by decide +kernel⟩⟩

theorem witness_TxconfRearmsTheTimeoutOnSuccess :
    Addressed aRM 0 (first aRM) ∧ (first aRM).mode = .network ∧ Addressed (block cfgA) 0 (first (block cfgA))
      ∧ (first (block cfgA)).mode ≠ .network := by decide +kernel

/-- The ring before its first frame, and with the newest frame in its last slot (R55: the next slot is 0 in both). -/
theorem witness_RxindStoresAndWakesFromPrepareBusSleep :
    (let s := din [0x17, 0, 1, 2, 3, 4, 5, 6] (block cfgA)
     Addressed s 0 (first s) ∧ s.operands.din.length = (first s).cfg.rxLen.toNat ∧ 1 ≤ (first s).cfg.rxDepth.toNat
       ∧ (first s).rxLast = 0xFF ∧ (first s).mode = .busSleep)
      ∧ (let s := din [0x17, 0, 1, 2, 3, 4, 5, 6] (at' 0 preparing received)
         Addressed s 0 (first s) ∧ s.operands.din.length = (first s).cfg.rxLen.toNat ∧ 1 ≤ (first s).cfg.rxDepth.toNat
           ∧ 0 = ((first s).rxLast.toNat + 1) % (first s).cfg.rxDepth.toNat ∧ (first s).mode = .prepareBusSleep) := by
  decide +kernel

/-- M17, and M16: the bit is 0, or it is 1 in Repeat-Message. -/
theorem witness_RxindInNetworkModeKeepsTheState :
    (let s := din [0x17, 0, 9, 9, 9, 9, 9, 9] aNO
     Addressed s 0 (first s) ∧ (first s).mode = .network ∧ s.operands.din.length = (first s).cfg.rxLen.toNat
       ∧ 1 ≤ (first s).cfg.rxDepth.toNat
       ∧ cbvRxBit s.params (first s).cfg s.operands.din s.params.cbvRmr = false)
      ∧ (let s := din [0x17, 1, 9, 9, 9, 9, 9, 9] aRM
         Addressed s 0 (first s) ∧ (first s).mode = .network ∧ s.operands.din.length = (first s).cfg.rxLen.toNat
           ∧ 1 ≤ (first s).cfg.rxDepth.toNat ∧ (first s).state ≠ .normalOperation ∧ (first s).state ≠ .readySleep) := by
  decide +kernel

/-- M18, M19. -/
theorem witness_RxindWithTheBitEntersRepeatMessage :
    ∀ s ∈ [din [0x17, 1, 9, 9, 9, 9, 9, 9] aNO, din [0x17, 1, 9, 9, 9, 9, 9, 9] aRS],
      Addressed s 0 (first s) ∧ (first s).mode = .network ∧ s.operands.din.length = (first s).cfg.rxLen.toNat
        ∧ 1 ≤ (first s).cfg.rxDepth.toNat
        ∧ cbvRxBit s.params (first s).cfg s.operands.din s.params.cbvRmr = true
        ∧ ((first s).state = .normalOperation ∨ (first s).state = .readySleep) := by decide +kernel

/-- The position absent, at the length, and one below it. -/
theorem witness_ReceivedControlBitIsTheConfiguredOne :
    baseChan.cbvPos = par.absent ∧ { baseChan with cbvPos := 1 }.rxLen.toNat ≤ { baseChan with cbvPos := 1 }.cbvPos.toNat
      ∧ { baseChan with cbvPos := 0 }.cbvPos ≠ par.absent
      ∧ { baseChan with cbvPos := 0 }.cbvPos.toNat < { baseChan with cbvPos := 0 }.rxLen.toNat
      ∧ ([0x80] : List Byte)[(0 : Byte).toNat]? = some 0x80 := by decide +kernel

theorem witness_TimerOperationsWriteOneTimer : TimerSel.remoteSleep ≠ TimerSel.timeout := by decide
theorem witness_StartedTimerExpiresExactlyOnce : 0 < (1 : Dur).toNat := by decide

/-- The byte present, and absent. -/
theorem witness_FramerChangesOneByte :
    (present par (first aNO).cfg.cbvPos = true ∧ CbvReadable par (first aNO) 0)
      ∧ (present par (first (block cfgE)).cfg.cbvPos = false ∧ CbvReadable par (first (block cfgE)) 0) := by decide +kernel

theorem witness_TimeoutHandlerActsByState :
    (work aRM).chan.state = .repeatMessage ∧ (work aNO).chan.state = .normalOperation
      ∧ ((work aRS).chan.state = .readySleep ∧ CbvReadable par (work aRS).chan 0)
      ∧ (work aPBS).chan.state = .prepareBusSleep := by decide +kernel

theorem witness_MessageCycleHandlerTransmitsAndPaces :
    (∀ s ∈ [aRM, aNO], ((work s).chan.state = .repeatMessage ∨ (work s).chan.state = .normalOperation)
        ∧ (work s).chan.txEnabled = true ∧ TxReadable (work s).chan ∧ (work s).back = [true, true])
      ∧ ¬ (((work aRS).chan.state = .repeatMessage ∨ (work aRS).chan.state = .normalOperation)
            ∧ (work aRS).chan.txEnabled = true) := by decide +kernel

theorem witness_RepeatMessageHandlerGoesByRequested :
    (present par (work aRM).chan.cfg.cbvPos = true
        ∧ (work aRM).chan.cfg.cbvPos.toNat < (work aRM).chan.cfg.txLen.toNat)
      ∧ (work aRM).chan.state = .repeatMessage ∧ (work aRM).chan.requested = false
      ∧ (work (at' 0 (fun c => { c with requested := true }) aRM)).chan.requested = true := by decide +kernel

theorem witness_SleepHandlersActByState :
    (work aPBS).chan.state = .prepareBusSleep
      ∧ (let s := at' 0 (awake .normalOperation true) (block cfgD)
         (work s).chan.state = .normalOperation ∧ (work s).chan.rsiEnabled = true ∧ (work s).chan.rsiIndicated = false) := by
  decide +kernel

/-- A countdown one above the tick period. -/
theorem witness_TickWithNothingDueOnlyCountsDown :
    let s := at' 0 (fun c => setTimer c .timeout ⟨true, 11⟩) aRS
    s.params.wf = true ∧ (∀ c ∈ s.chans, c.state ≠ .uninit)
      ∧ ∀ c ∈ s.chans, ∀ T, (getTimer c T).run = true → s.glob.tickPeriod.toNat < (getTimer c T).cnt.toNat := by
  refine ⟨by decide +kernel, by decide +kernel, fun c hc T => ?_⟩
  have h : ∀ c ∈ (at' 0 (fun c => setTimer c .timeout ⟨true, 11⟩) aRS).chans, ∀ T ∈ Config.tickOrder,
      (getTimer c T).run = true → (10 : Nat) < (getTimer c T).cnt.toNat := by decide +kernel
  exact h c hc T (by cases T <;> decide)

/-- Both channels of configuration D, with exactly two answers. -/
theorem witness_TickCompletesOnReadyChannels :
    let s := due .msgCycle (at' 0 (awake .repeatMessage true) (block cfgD))
    s.params.wf = true ∧ (∀ c ∈ s.chans, c.state ≠ .uninit) ∧ (∀ c ∈ s.chans, ReadyChannel s.params c)
      ∧ s.nCh = s.operands.back.length := by decide +kernel

/-- The environment of channel 0. -/
def env (s : State) : Env := envOf s 0

/-- H23, H24: both timers due, at the tick period. -/
theorem witness_DoubleExpiryInRepeatMessageStaysAwake :
    let s := due .timeout (due .repeatMsg aRM)
    (env s).params.tickOrder = Config.tickOrder ∧ (work s).chan.state = .repeatMessage
      ∧ (work s).chan.tm.timeout = ⟨true, 10⟩ ∧ (work s).chan.tm.repeatMsg = ⟨true, 10⟩ ∧ (env s).glob.tickPeriod.toNat = 10
      ∧ ∃ w', tickTimers (env s) (env s).params.tickOrder (work s) = .next w' :=
  ⟨by decide +kernel, by decide +kernel, by decide +kernel, by decide +kernel, by decide +kernel, ⟨_, rfl⟩⟩

/-- H14. -/
theorem witness_ReadySleepCanReachBusSleepInOneTick :
    let s := due .timeout (at' 0 (awake .readySleep false) (block cfgD))
    (env s).params.tickOrder = Config.tickOrder ∧ (work s).chan.state = .readySleep
      ∧ (work s).chan.tm.timeout = ⟨true, 10⟩ ∧ (env s).glob.tickPeriod.toNat = 10 ∧ (work s).chan.cfg.tWbs.toNat = 10
      ∧ CbvReadable (env s).params (work s).chan 0 := by decide +kernel

/-- The whole invariant holds of `received` in Repeat-Message with the next command given. -/
theorem witness_inv : Inv (given 0xA800 (due .repeatMsg (at' 0 (awake .repeatMessage true) received))) where
  params := by decide +kernel
  channels := by decide +kernel
  pair := by decide +kernel
  memory := by decide +kernel
  passive := by decide +kernel
  repeatTimer := by decide +kernel
  ready := by decide +kernel
  frame := by decide +kernel

/-- A state with the invariant from which the step goes on. -/
theorem witness_EveryStepKeepsTheInvariant :
    ∃ s t, Inv s ∧ step s = .next t := ⟨_, _, witness_inv, rfl⟩
theorem witness_ModeAndStateStayALegalPair : ∃ s t, PairInv s ∧ step s = .next t := ⟨_, _, witness_inv.pair, rfl⟩
theorem witness_BuffersKeepTheirCanonicalForm : ∃ s t, MemInv s ∧ step s = .next t := ⟨_, _, witness_inv.memory, rfl⟩
theorem witness_RepeatTimerRunsInRepeatMessageOnly : ∃ s t, PairInv s ∧ RepeatTimerInv s ∧ step s = .next t :=
  ⟨_, _, witness_inv.pair, witness_inv.repeatTimer, rfl⟩
/-- The passive block of configuration E, in Normal-Operation with its message-cycle timer due. -/
theorem witness_PassiveBlockNeverTransmits :
    ∃ s t r, PassiveInv s ∧ s.glob.passive = true ∧ exec .tick s = .next t ∧ t.rsp = some r :=
  ⟨due .msgCycle (at' 0 (awake .normalOperation false) (block cfgE)), _, _, by decide +kernel, by decide +kernel, rfl, rfl⟩
theorem witness_ResetHasTheInvariant : 1 ≤ 1 ∧ 256 ≤ 256 ∧ par.wf = true := by decide +kernel

/-- The invariant at reset, and one refusal of each kind: the two of INIT (the second is log entry 12's), one for a stream,
two for answers. -/
theorem witness_NothingIsFatal :
    Inv State.reset
      ∧ step (given 0x0800 { State.reset with operands := ⟨0, [], ⟨.zero, [.zero, .zero]⟩, []⟩ }) = .refused .illegalConfiguration
      ∧ step (given 0x0800 State.reset) = .refused .configurationShape
      ∧ step (given 0x9000 (block cfgA)) = .refused .streamLength
      ∧ step (given 0x7000 (back [] aRM)) = .refused .noBusAnswer
      ∧ step (given 0xA800 (back [] (due .msgCycle aRM))) = .refused .noBusAnswer :=
  ⟨⟨by decide +kernel, by decide +kernel, by decide +kernel, by decide +kernel, by decide +kernel, by decide +kernel,
    by decide +kernel, by decide +kernel⟩, rfl, rfl, rfl, rfl, rfl⟩

theorem witness_ChannelsAreIsolated :
    Instr.channel? (.netreq 0) = some 0 ∧ (1 : Nat) ≠ (0 : ChIdx).toNat ∧ ∃ t, exec (.netreq 0) (block cfgD) = .next t :=
  ⟨by decide, by decide, ⟨_, rfl⟩⟩

theorem witness_CommandsOnDifferentChannelsCommute :
    Instr.channel? (.netreq 0) = some 0 ∧ Instr.channel? (.pstart 1) = some 1 ∧ (0 : ChIdx) ≠ 1
      ∧ ∃ t u, exec (.netreq 0) { block cfgD with operands := .empty } = .next t
          ∧ exec (.pstart 1) { t with operands := .empty } = .next u :=
  ⟨by decide, by decide, by decide, ⟨_, _, rfl, rfl⟩⟩

theorem witness_PnConfirmedInfluencesNothing :
    (let s := at' 0 (fun c => { c with pnConfirmed := true }) (block cfgD)
     s ≠ block cfgD ∧ forgetPn s = forgetPn (block cfgD)) := by decide +kernel
/-- PNCONF writes the bit, INIT takes it back. -/
theorem witness_PnConfirmedInfluencesNothing_writes :
    ∃ t u c c', exec (.pnconf 0) (block cfgD) = .next t ∧ (block cfgD).chans[0]? = some c
      ∧ t.chans[(0 : ChIdx).toNat]? = some c' ∧ c'.pnConfirmed ≠ c.pnConfirmed ∧ t.rsp = some ⟨.ok, 0, [], []⟩
      ∧ exec .init t = .next u ∧ (u.chans[0]?).isSome = true :=
  ⟨_, _, _, _, rfl, rfl, rfl, by decide +kernel, by decide +kernel, rfl, by decide +kernel⟩

theorem witness_NotificationIsAPureSideChannel :
    let s := { block cfgA with glob := { cfgA.glob with stateChangeInd := false } }
    s ≠ block cfgA ∧ forgetNotification s = forgetNotification (block cfgA) := by decide +kernel

theorem witness_UnspecifiedRegistersAreNotReadBeforeInit :
    let s := { State.resetOf 1 with glob := cfgE.glob, chans := [{ Channel.reset with cfg := baseChan, tx := [(0, 0xAB)] }] }
    s ≠ State.resetOf 1 ∧ (∀ c ∈ s.chans, c.state = .uninit) ∧ forgetUnspecified s = forgetUnspecified (State.resetOf 1) := by
  decide +kernel

/-- The first request after INIT. -/
theorem witness_RequestedIsWrittenByRequestAndRelease :
    ∃ t c', exec (.netreq 0) (block cfgA) = .next t ∧ (block cfgA).chans[0]? = some (first (block cfgA))
      ∧ t.chans[0]? = some c' ∧ c'.requested ≠ (first (block cfgA)).requested :=
  ⟨_, _, rfl, by decide +kernel, rfl, by decide +kernel⟩

theorem witness_StatesMoveOnlyAsListed :
    PairInv (block cfgA) ∧ (block cfgA).params.tickOrder = Config.tickOrder
      ∧ ∃ t c', exec (.netreq 0) (block cfgA) = .next t ∧ (block cfgA).chans[0]? = some (first (block cfgA))
          ∧ t.chans[0]? = some c' ∧ c'.state ≠ (first (block cfgA)).state :=
  ⟨by decide +kernel, by decide +kernel, ⟨_, _, rfl, by decide +kernel, rfl, by decide +kernel⟩⟩

end Sys2Proof.Tests
end

section
/-! PROOFS, family 10_state: R19. Erasing `pn_confirmed` commutes with every operation, so no operation reads it. -/

namespace Sys2Proof.Proofs.State

open Sys2Proof Sys2Proof.Machine

/-! ### Outcomes under a map -/

/-- The outcome with its value, if it goes on, replaced by `f` of it. -/
def mapOut {α β : Type} (f : α → β) (o : Out α) : Out β := andThen o fun a => .next (f a)

@[simp] theorem mapOut_next {α β : Type} (f : α → β) (a : α) : mapOut f (.next a) = .next (f a) := rfl
@[simp] theorem mapOut_fault {α β : Type} (f : α → β) (r : Fault) : mapOut f (.fault r) = .fault r := rfl
@[simp] theorem mapOut_refused {α β : Type} (f : α → β) (r : Refusal) : mapOut f (.refused r) = .refused r := rfl

/-- Agreement up to `f` is equality under `f`. -/
theorem agreeUpTo_iff_mapOut_eq {f : State → State} {o o' : Out State} :
    AgreeUpTo f o o' ↔ mapOut f o = mapOut f o' := by
  cases o <;> cases o' <;> simp [AgreeUpTo]

/-- A map passes through a sequence when it passes through both parts. -/
theorem mapOut_andThen {α α' β β' : Type} {f : α → α'} {g : β → β'} {o : Out α} {o' : Out α'} {k : α → Out β}
    {k' : α' → Out β'} (ho : mapOut f o = o') (hk : ∀ a, mapOut g (k a) = k' (f a)) :
    mapOut g (andThen o k) = andThen o' k' := by
  subst ho
  cases o with
  | next a => exact hk a
  | fault r => rfl
  | refused r => rfl

/-- As `mapOut_andThen`, when both sides begin with the same outcome. -/
theorem mapOut_andThen_same {α β β' : Type} {g : β → β'} {o : Out α} {k : α → Out β} {k' : α → Out β'}
    (hk : ∀ a, mapOut g (k a) = k' a) : mapOut g (andThen o k) = andThen o k' := by
  cases o with
  | next a => exact hk a
  | fault r => rfl
  | refused r => rfl

/-- A map passes through a case distinction when it passes through both branches. -/
theorem mapOut_ite {α β : Type} {g : α → β} {P : Prop} [Decidable P] {a b : Out α} {a' b' : Out β}
    (ha : mapOut g a = a') (hb : mapOut g b = b') : mapOut g (if P then a else b) = if P then a' else b' := by
  split
  · exact ha
  · exact hb

/-- Case distinctions on the same condition agree under a map when their branches do. -/
theorem mapOut_ite_congr {α β : Type} {g : α → β} {P : Prop} [Decidable P] {a b a' b' : Out α}
    (ha : mapOut g a = mapOut g a') (hb : mapOut g b = mapOut g b') :
    mapOut g (if P then a else b) = mapOut g (if P then a' else b') := by
  split
  · exact ha
  · exact hb

/-! ### The erasure -/

/-- A channel with its `pn_confirmed` bit erased. -/
def erasePn (c : Channel) : Channel := { c with pnConfirmed := false }

/-- A command in progress with the `pn_confirmed` bit of its channel erased. -/
def erasePnWork (w : Work) : Work := { w with chan := erasePn w.chan }

/-- The end of a command with the `pn_confirmed` bit of its channel erased. -/
def erasePnAnswer (a : Answer) : Answer := { a with work := erasePnWork a.work }

theorem forgetPn_eq (s : State) : forgetPn s = { s with chans := s.chans.map erasePn } := rfl

@[simp] theorem forgetPn_params (s : State) : (forgetPn s).params = s.params := rfl
@[simp] theorem forgetPn_chans (s : State) : (forgetPn s).chans = s.chans.map erasePn := rfl
@[simp] theorem forgetPn_operands (s : State) : (forgetPn s).operands = s.operands := rfl
@[simp] theorem forgetPn_port (s : State) : (forgetPn s).port = s.port := rfl
@[simp] theorem erasePn_state (c : Channel) : (erasePn c).state = c.state := rfl
@[simp] theorem erasePn_mode (c : Channel) : (erasePn c).mode = c.mode := rfl
@[simp] theorem erasePn_comp_erasePn : erasePn ∘ erasePn = erasePn := rfl
@[simp] theorem erasePnWork_chan (w : Work) : (erasePnWork w).chan = erasePn w.chan := rfl

/-! ### Operations on a channel's record -/

theorem erasePn_loadBurst (b : Bool) (c : Channel) : erasePn (loadBurst b c) = loadBurst b (erasePn c) :=
  apply_ite erasePn _ _ _

theorem erasePn_afterCycleTx (ok : Bool) (c : Channel) : erasePn (afterCycleTx ok c) = afterCycleTx ok (erasePn c) := by
  unfold afterCycleTx
  exact (apply_ite erasePn _ _ _).trans (if_congr Iff.rfl (apply_ite erasePn _ _ _) rfl)

theorem erasePn_writeTx (c : Channel) (k : Nat) (v : Byte) :
    mapOut erasePn (writeTx c k v) = writeTx (erasePn c) k v := mapOut_ite rfl rfl

theorem erasePn_writeTxFrom (c : Channel) (k : Nat) (d : List Byte) :
    mapOut erasePn (writeTxFrom c k d) = writeTxFrom (erasePn c) k d := mapOut_ite rfl rfl

theorem erasePn_storeRx (c : Channel) (f : List Byte) : mapOut erasePn (storeRx c f) = storeRx (erasePn c) f :=
  mapOut_ite rfl rfl

theorem erasePn_cbvModify (p : Params) (f : Byte → Byte) (c : Channel) :
    mapOut erasePn (cbvModify p f c) = cbvModify p f (erasePn c) :=
  mapOut_ite (mapOut_andThen_same fun v => erasePn_writeTx c _ (f v)) rfl

theorem erasePn_cbvClrAll (p : Params) (c : Channel) :
    mapOut erasePn (cbvClrAll p c) = cbvClrAll p (erasePn c) :=
  mapOut_ite (erasePn_writeTx c _ 0) rfl

/-! ### Transitions -/

theorem erasePnWork_sc (e : Env) (old new : NmState) (w : Work) :
    erasePnWork (sc e old new w) = sc e old new (erasePnWork w) := apply_ite erasePnWork _ _ _

theorem erasePnWork_cancelRsi (e : Env) (w : Work) : erasePnWork (cancelRsi e w) = cancelRsi e (erasePnWork w) :=
  apply_ite erasePnWork _ _ _

theorem erasePnWork_txTimeoutNote (e : Env) (w : Work) :
    erasePnWork (txTimeoutNote e w) = txTimeoutNote e (erasePnWork w) := apply_ite erasePnWork _ _ _

theorem erasePnWork_withChan (w : Work) (c : Channel) :
    erasePnWork (withChan w c) = withChan (erasePnWork w) (erasePn c) := rfl

theorem erasePnWork_wake (e : Env) (b : Bool) (w : Work) : erasePnWork (wake e b w) = wake e b (erasePnWork w) :=
  erasePnWork_sc ..

theorem erasePnWork_trBsBs (e : Env) (w : Work) : erasePnWork (trBsBs e w) = trBsBs e (erasePnWork w) :=
  erasePnWork_sc ..

theorem erasePnWork_trNoRs (e : Env) (w : Work) : erasePnWork (trNoRs e w) = trNoRs e (erasePnWork w) :=
  erasePnWork_sc ..

theorem erasePnWork_trPbsBs (e : Env) (w : Work) : erasePnWork (trPbsBs e w) = trPbsBs e (erasePnWork w) :=
  erasePnWork_sc ..

theorem erasePnWork_trNoRm (e : Env) (b : Bool) (w : Work) :
    erasePnWork (trNoRm e b w) = trNoRm e b (erasePnWork w) := by
  unfold trNoRm
  rw [erasePnWork_sc, erasePnWork_cancelRsi, erasePnWork_withChan, erasePn_loadBurst]
  rfl

theorem erasePnWork_trRsNo (e : Env) (w : Work) : erasePnWork (trRsNo e w) = trRsNo e (erasePnWork w) := by
  unfold trRsNo
  rw [erasePnWork_sc, enableTx_eq, enableTx_eq]
  rfl

theorem erasePnWork_trRsRm (e : Env) (b : Bool) (w : Work) :
    erasePnWork (trRsRm e b w) = trRsRm e b (erasePnWork w) := by
  unfold trRsRm
  rw [erasePnWork_sc, erasePnWork_cancelRsi, erasePnWork_withChan, erasePn_loadBurst, enableTx_eq, enableTx_eq]
  rfl

theorem erasePnWork_trRmReenter (w : Work) : erasePnWork (trRmReenter w) = trRmReenter (erasePnWork w) := by
  unfold trRmReenter
  rw [erasePnWork_withChan, erasePn_loadBurst]
  rfl

theorem erasePnWork_trRmRs (e : Env) (w : Work) : mapOut erasePnWork (trRmRs e w) = trRmRs e (erasePnWork w) :=
  mapOut_andThen (mapOut_ite (erasePn_cbvClrAll _ _) rfl) fun _ => congrArg _ (erasePnWork_sc ..)

theorem erasePnWork_trRsPbs (e : Env) (w : Work) : mapOut erasePnWork (trRsPbs e w) = trRsPbs e (erasePnWork w) :=
  mapOut_andThen (mapOut_ite (erasePn_cbvModify _ _ _) rfl) fun _ => congrArg _ (erasePnWork_sc ..)

theorem erasePnWork_trRmNo (e : Env) (w : Work) : mapOut erasePnWork (trRmNo e w) = trRmNo e (erasePnWork w) := by
  refine mapOut_andThen (erasePn_cbvClrAll _ _) fun c => congrArg _ ((erasePnWork_sc ..).trans ?_)
  rw [erasePnWork_withChan, apply_ite erasePn]
  rfl

/-! ### Expiry handlers and ticks -/

/-- The value a transmit request goes on with, the channel's `pn_confirmed` bit erased. -/
def erasePnSent (r : Work × Bool) : Work × Bool := (erasePnWork r.1, r.2)

theorem erasePnSent_busTx (e : Env) (w : Work) : mapOut erasePnSent (busTx e w) = busTx e (erasePnWork w) := by
  obtain ⟨c, evs, back⟩ := w
  refine mapOut_andThen_same fun f => ?_
  cases back <;> rfl

theorem erasePnWork_expireTimeout (e : Env) (w : Work) :
    mapOut erasePnWork (expireTimeout e w) = expireTimeout e (erasePnWork w) := by
  unfold expireTimeout
  rw [erasePnWork_chan, erasePn_state]
  split
  · exact congrArg _ (erasePnWork_txTimeoutNote ..)
  · exact congrArg _ (erasePnWork_txTimeoutNote ..)
  · exact erasePnWork_trRsPbs ..
  all_goals rfl

theorem erasePnWork_expireMsgCycle (e : Env) (w : Work) :
    mapOut erasePnWork (expireMsgCycle e w) = expireMsgCycle e (erasePnWork w) := by
  refine mapOut_ite (mapOut_andThen (erasePnSent_busTx e w) fun r => ?_) rfl
  exact congrArg (fun c => Host.Outcome.next (withChan (erasePnWork r.1) c)) (erasePn_afterCycleTx r.2 r.1.chan)

theorem erasePnWork_expireRepeatMsg (e : Env) (w : Work) :
    mapOut erasePnWork (expireRepeatMsg e w) = expireRepeatMsg e (erasePnWork w) :=
  mapOut_ite (mapOut_ite (erasePnWork_trRmNo e w) (erasePnWork_trRmRs e w)) rfl

theorem erasePnWork_expireWaitBusSleep (e : Env) (w : Work) :
    mapOut erasePnWork (expireWaitBusSleep e w) = expireWaitBusSleep e (erasePnWork w) :=
  mapOut_ite (congrArg _ (erasePnWork_trPbsBs e w)) rfl

theorem erasePnWork_expireRemoteSleep (e : Env) (w : Work) :
    mapOut erasePnWork (expireRemoteSleep e w) = expireRemoteSleep e (erasePnWork w) := mapOut_ite rfl rfl

theorem erasePnWork_expire (e : Env) (T : TimerSel) (w : Work) :
    mapOut erasePnWork (expire e T w) = expire e T (erasePnWork w) :=
  match T with
  | .timeout => erasePnWork_expireTimeout e w
  | .msgCycle => erasePnWork_expireMsgCycle e w
  | .repeatMsg => erasePnWork_expireRepeatMsg e w
  | .waitBusSleep => erasePnWork_expireWaitBusSleep e w
  | .remoteSleep => erasePnWork_expireRemoteSleep e w

theorem erasePnWork_tTick (e : Env) (T : TimerSel) (d : Dur) (w : Work) :
    mapOut erasePnWork (tTick (expire e) T d w) = tTick (expire e) T d (erasePnWork w) := by
  cases T <;> exact mapOut_ite (mapOut_ite (erasePnWork_expire ..) rfl) rfl

theorem erasePnWork_tickTimers (e : Env) (Ts : List TimerSel) (w : Work) :
    mapOut erasePnWork (tickTimers e Ts w) = tickTimers e Ts (erasePnWork w) := by
  induction Ts generalizing w with
  | nil => rfl
  | cons T Ts ih => exact mapOut_andThen (erasePnWork_tTick ..) ih

theorem erasePn_tickChannels (p : Params) (g : GlobCfg) (cs : List Channel) (k : Nat) (evs : List Event)
    (back : List Bool) :
    mapOut (Prod.map (List.map erasePn) id) (tickChannels p g k cs evs back)
      = tickChannels p g k (cs.map erasePn) evs back := by
  induction cs generalizing k evs back with
  | nil => rfl
  | cons c cs ih =>
    exact mapOut_andThen (erasePnWork_tickTimers ..) fun w => mapOut_andThen (ih ..) fun r => rfl

/-! ### Commands -/

theorem erasePnWork_netreqAwake (e : Env) (w : Work) :
    erasePnWork (netreqAwake e w) = netreqAwake e (erasePnWork w) := by
  unfold netreqAwake
  rw [erasePnWork_chan, erasePn_state]
  refine (apply_ite erasePnWork _ _ _).trans (if_congr Iff.rfl ?_ ?_)
  · split
    · exact erasePnWork_trRsRm ..
    · exact erasePnWork_trNoRm ..
    all_goals exact erasePnWork_trRmReenter _
  · exact (apply_ite erasePnWork _ _ _).trans (if_congr Iff.rfl (erasePnWork_trRsNo e w) rfl)

theorem erasePnWork_netreqAsleep (e : Env) (w : Work) :
    mapOut erasePnWork (netreqAsleep e w) = netreqAsleep e (erasePnWork w) := by
  refine mapOut_andThen (mapOut_ite (erasePn_cbvModify _ _ _) rfl) fun c => congrArg Host.Outcome.next ?_
  exact (apply_ite erasePnWork _ _ _).trans (if_congr Iff.rfl (erasePnWork_wake ..) (erasePnWork_wake ..))

theorem erasePn_netreqRule (e : Env) (w : Work) :
    mapOut erasePnAnswer (netreqRule e w) = netreqRule e (erasePnWork w) := by
  unfold netreqRule
  dsimp only [withChan_chan, erasePnWork_chan, erasePn_mode]
  split
  · exact mapOut_andThen (erasePnWork_netreqAsleep ..) fun _ => rfl
  · exact mapOut_andThen (erasePnWork_netreqAsleep ..) fun _ => rfl
  · exact congrArg done (erasePnWork_netreqAwake ..)

theorem erasePn_netrelRule (e : Env) (w : Work) :
    mapOut erasePnAnswer (netrelRule e w) = netrelRule e (erasePnWork w) :=
  congrArg done ((apply_ite erasePnWork _ _ _).trans (if_congr Iff.rfl (erasePnWork_trNoRs ..) rfl))

theorem erasePn_pstartRule (e : Env) (w : Work) :
    mapOut erasePnAnswer (pstartRule e w) = pstartRule e (erasePnWork w) :=
  mapOut_ite rfl (congrArg done (erasePnWork_wake ..))

theorem erasePn_rmreqRule (e : Env) (w : Work) :
    mapOut erasePnAnswer (rmreqRule e w) = rmreqRule e (erasePnWork w) := by
  refine mapOut_ite rfl (mapOut_andThen (erasePn_cbvModify _ _ _) fun c => congrArg done ?_)
  exact (apply_ite erasePnWork _ _ _).trans (if_congr Iff.rfl (erasePnWork_trRsRm ..) (erasePnWork_trNoRm ..))

theorem erasePn_bussyncRule (e : Env) (w : Work) :
    mapOut erasePnAnswer (bussyncRule e w) = bussyncRule e (erasePnWork w) :=
  mapOut_ite rfl (mapOut_andThen (erasePnSent_busTx e w) fun _ => mapOut_ite rfl rfl)

theorem erasePn_setsrbRule (e : Env) (w : Work) :
    mapOut erasePnAnswer (setsrbRule e w) = setsrbRule e (erasePnWork w) :=
  mapOut_ite rfl (mapOut_andThen (erasePn_cbvModify _ _ _) fun _ => rfl)

/-- PNCONF writes the bit, so the erasure has to be made after it too. -/
theorem erasePn_pnconfRule (e : Env) (w : Work) :
    mapOut erasePnAnswer (pnconfRule e w) = mapOut erasePnAnswer (pnconfRule e (erasePnWork w)) :=
  mapOut_ite_congr rfl rfl

theorem erasePn_setudRule (din : List Byte) (e : Env) (w : Work) :
    mapOut erasePnAnswer (setudRule din e w) = setudRule din e (erasePnWork w) :=
  mapOut_ite (mapOut_ite rfl (mapOut_andThen (erasePn_writeTxFrom _ _ _) fun _ => rfl)) rfl

theorem erasePn_txconfRule (failed : Bool) (e : Env) (w : Work) :
    mapOut erasePnAnswer (txconfRule failed e w) = txconfRule failed e (erasePnWork w) := by
  have hw : erasePnWork (if failed = false ∧ w.chan.mode = .network then rearmTimeout w else w)
      = if failed = false ∧ (erasePnWork w).chan.mode = .network then rearmTimeout (erasePnWork w) else erasePnWork w :=
    apply_ite erasePnWork _ _ _
  unfold txconfRule
  dsimp only
  rw [← hw]
  exact congrArg done (apply_ite erasePnWork _ _ _)

theorem rxSelf_eq_rearmTimeout (w : Work) : rxSelf w = rearmTimeout w := by
  unfold rxSelf
  split <;> rfl

theorem erasePnWork_rxSelf (w : Work) : erasePnWork (rxSelf w) = rxSelf (erasePnWork w) := by
  rw [rxSelf_eq_rearmTimeout, rxSelf_eq_rearmTimeout]
  rfl

theorem erasePnWork_rxRemoteSleep (e : Env) (w : Work) :
    erasePnWork (rxRemoteSleep e w) = rxRemoteSleep e (erasePnWork w) := by
  unfold rxRemoteSleep
  dsimp only
  rw [← erasePnWork_cancelRsi]
  exact (apply_ite erasePnWork _ _ _).trans (if_congr Iff.rfl (apply_ite erasePnWork _ _ _) rfl)

theorem erasePnWork_rxReduced (w : Work) : erasePnWork (rxReduced w) = rxReduced (erasePnWork w) :=
  apply_ite erasePnWork _ _ _

theorem erasePnWork_rxRepeatBit (e : Env) (rmr : Bool) (w : Work) :
    erasePnWork (rxRepeatBit e rmr w) = rxRepeatBit e rmr (erasePnWork w) := by
  unfold rxRepeatBit
  rw [erasePnWork_chan, erasePn_state]
  refine (apply_ite erasePnWork _ _ _).trans (if_congr Iff.rfl ?_ rfl)
  split
  · exact erasePnWork_trNoRm ..
  · exact erasePnWork_trRsRm ..
  all_goals rfl

theorem erasePnWork_rxReact (e : Env) (rmr : Bool) (w : Work) :
    erasePnWork (rxReact e rmr w) = rxReact e rmr (erasePnWork w) := by
  unfold rxReact
  rw [erasePnWork_chan, erasePn_mode]
  split
  · exact erasePnWork_trBsBs ..
  · exact erasePnWork_wake ..
  · rw [erasePnWork_rxRepeatBit, erasePnWork_rxReduced, erasePnWork_rxRemoteSleep, erasePnWork_rxSelf]

theorem erasePn_rxindRule (f : List Byte) (e : Env) (w : Work) :
    mapOut erasePnAnswer (rxindRule f e w) = rxindRule f e (erasePnWork w) := by
  refine mapOut_ite (mapOut_andThen (erasePn_storeRx _ _) fun c => congrArg done ((erasePnWork_rxReact ..).trans ?_)) rfl
  exact congrArg (rxReact e _) (apply_ite erasePnWork _ _ _)

/-- A rule behind the check for Uninit commutes with the erasure when the rule does. -/
theorem erasePn_gated {rule : Env → Work → Out Answer} {e : Env} {w : Work}
    (h : mapOut erasePnAnswer (rule e w) = rule e (erasePnWork w)) :
    mapOut erasePnAnswer (gated rule e w) = gated rule e (erasePnWork w) := mapOut_ite rfl h

/-- Every command on a channel but PNCONF commutes with the erasure. -/
theorem erasePn_commandRule (o : Operands) {i : Instr} (hi : ∀ ch, i ≠ .pnconf ch) (e : Env) (w : Work) :
    mapOut erasePnAnswer (commandRule o i e w) = commandRule o i e (erasePnWork w) := by
  cases i with
  | init => rfl
  | deinit => rfl
  | tick => rfl
  | getst ch => rfl
  | netreq ch => exact erasePn_gated (erasePn_netreqRule e w)
  | netrel ch => exact erasePn_gated (erasePn_netrelRule e w)
  | encom ch => exact erasePn_gated (mapOut_ite rfl rfl)
  | discom ch => exact erasePn_gated (mapOut_ite rfl rfl)
  | setud ch => exact erasePn_gated (erasePn_setudRule _ e w)
  | getud ch => exact erasePn_gated (mapOut_ite rfl (mapOut_andThen_same fun _ => rfl))
  | getnid ch => exact erasePn_gated (mapOut_ite rfl (mapOut_andThen_same fun _ => rfl))
  | getlnid ch => exact erasePn_gated (mapOut_ite rfl rfl)
  | rmreq ch => exact erasePn_gated (erasePn_rmreqRule e w)
  | getpdu ch => exact erasePn_gated (mapOut_ite rfl (mapOut_andThen_same fun _ => rfl))
  | bussync ch => exact erasePn_gated (erasePn_bussyncRule e w)
  | chkrsi ch => exact erasePn_gated (mapOut_ite rfl rfl)
  | setsrb ch => exact erasePn_gated (erasePn_setsrbRule e w)
  | txconf failed ch => exact erasePn_gated (erasePn_txconfRule failed e w)
  | rxind ch => exact erasePn_gated (erasePn_rxindRule _ e w)
  | pnconf ch => exact absurd rfl (hi ch)
  | trigtx ch => exact erasePn_gated (mapOut_ite rfl (mapOut_andThen_same fun _ => rfl))
  | pstart ch => exact erasePn_gated (erasePn_pstartRule e w)

/-- Every command on a channel answers alike, up to the bit, from the channel with and without the bit. -/
theorem mapOut_commandRule_erasePnWork (o : Operands) (i : Instr) (e : Env) (w : Work) :
    mapOut erasePnAnswer (commandRule o i e w) = mapOut erasePnAnswer (commandRule o i e (erasePnWork w)) := by
  by_cases hi : ∃ ch, i = .pnconf ch
  · obtain ⟨ch, rfl⟩ := hi
    exact mapOut_ite_congr rfl (erasePn_pnconfRule e w)
  · rw [not_exists] at hi
    exact (erasePn_commandRule o hi e w).trans (erasePn_commandRule o hi e (erasePnWork w)).symm

/-! ### Steps -/

/-- The end of a command, up to the bits, is the end with the erased record in the erased state. -/
theorem forgetPn_commit (s : State) (ch : ChIdx) (a : Answer) :
    forgetPn (commit s ch a) = commit (forgetPn s) ch (erasePnAnswer a) := by
  simp only [forgetPn_eq, commit, List.map_set]
  rfl

theorem forgetPn_forgetPn (s : State) : forgetPn (forgetPn s) = forgetPn s := by
  simp [forgetPn_eq]

/-- A command on a channel, from a state with and without the bits. -/
theorem mapOut_forgetPn_onAnyChannel (ch : ChIdx) (s : State) {rule : Env → Work → Out Answer}
    (hrule : ∀ e w, mapOut erasePnAnswer (rule e w) = mapOut erasePnAnswer (rule e (erasePnWork w))) :
    mapOut forgetPn (onAnyChannel ch s rule) = mapOut forgetPn (onAnyChannel ch (forgetPn s) rule) := by
  have hget : (forgetPn s).chans[ch.toNat]? = s.chans[ch.toNat]?.map erasePn := List.getElem?_map
  have hend : ∀ (u : State) (o : Out Answer), forgetPn u = forgetPn s →
      mapOut forgetPn (andThen o fun a => .next (commit u ch a))
        = andThen (mapOut erasePnAnswer o) fun a => .next (commit (forgetPn s) ch a) := fun u o hu =>
    mapOut_andThen rfl fun a => by rw [mapOut_next, forgetPn_commit, hu]
  cases hc : s.chans[ch.toNat]? with
  | none =>
    rw [onAnyChannel_none hc, onAnyChannel_none (by rw [hget, hc]; rfl)]
    exact congrArg Host.Outcome.next (forgetPn_forgetPn (answer s .eIllegal)).symm
  | some c =>
    rw [onAnyChannel_some hc, onAnyChannel_some (c := erasePn c) (by rw [hget, hc]; rfl), hend s _ rfl,
      hend (forgetPn s) _ (forgetPn_forgetPn s), hrule]
    rfl

/-- INIT does not look at the bits. -/
theorem execInit_forgetPn (s : State) : execInit (forgetPn s) = execInit s := by
  have hn : (forgetPn s).nCh = s.nCh := List.length_map ..
  have hchans : ∀ (g : GlobCfg) (fs : List ChanCfg),
      List.zipWith (initChannel s.params g) fs (s.chans.map erasePn) = List.zipWith (initChannel s.params g) fs s.chans :=
    fun g fs => List.zipWith_map_right ..
  unfold execInit
  simp only [hn, forgetPn_operands, forgetPn_params, forgetPn_chans, hchans]
  rfl

theorem forgetPn_execDeinit (s : State) : mapOut forgetPn (execDeinit s) = execDeinit (forgetPn s) := by
  have hall : (forgetPn s).chans.all (fun c => decide (c.state = .busSleep))
      = s.chans.all (fun c => decide (c.state = .busSleep)) := List.all_map
  unfold execDeinit
  rw [hall]
  refine mapOut_ite (congrArg Host.Outcome.next ?_) rfl
  simp only [forgetPn_eq, List.map_map]
  rfl

theorem forgetPn_execTick (s : State) : mapOut forgetPn (execTick s) = execTick (forgetPn s) := by
  have hinit : initialised (forgetPn s) = initialised s := List.all_map
  unfold execTick
  rw [hinit]
  exact mapOut_ite (mapOut_andThen (erasePn_tickChannels ..) fun _ => rfl) rfl

/-- Every command goes on alike, up to the bits, from a state with and without them. -/
theorem mapOut_forgetPn_exec (i : Instr) (s : State) :
    mapOut forgetPn (exec i s) = mapOut forgetPn (exec i (forgetPn s)) := by
  cases hi : i.channel? with
  | some ch =>
    rw [exec_of_channel hi, exec_of_channel hi]
    exact mapOut_forgetPn_onAnyChannel ch s (mapOut_commandRule_erasePnWork s.operands i)
  | none =>
    rcases channel?_eq_none hi with rfl | rfl | rfl
    · exact congrArg (mapOut forgetPn) (execInit_forgetPn s).symm
    · change mapOut forgetPn (execDeinit s) = mapOut forgetPn (execDeinit (forgetPn s))
      rw [forgetPn_execDeinit, forgetPn_execDeinit, forgetPn_forgetPn]
    · change mapOut forgetPn (execTick s) = mapOut forgetPn (execTick (forgetPn s))
      rw [forgetPn_execTick, forgetPn_execTick, forgetPn_forgetPn]

/-- Every step goes on alike, up to the bits, from a state with and without them. -/
theorem mapOut_forgetPn_step (s : State) : mapOut forgetPn (step s) = mapOut forgetPn (step (forgetPn s)) := by
  unfold step
  rw [forgetPn_port]
  split
  · exact congrArg Host.Outcome.next (forgetPn_forgetPn s).symm
  · rename_i rest _
    have hn : (forgetPn s).nCh = s.nCh := List.length_map ..
    simp only [hardReset, hn, forgetPn_params]
  · rename_i c rest _
    unfold runWord
    split
    · exact mapOut_forgetPn_exec _ (accept s c rest)
    · exact congrArg Host.Outcome.next (forgetPn_forgetPn (answer (accept s c rest) .eIllegal)).symm

/-- Two states that differ in the bits alone step to states that differ in the bits alone (R19). -/
theorem step_agreeUpTo_forgetPn {s s' : State} (h : forgetPn s = forgetPn s') :
    AgreeUpTo forgetPn (step s) (step s') := by
  rw [agreeUpTo_iff_mapOut_eq, mapOut_forgetPn_step s, mapOut_forgetPn_step s', h]

end Sys2Proof.Proofs.State
end

section
/-! PROOFS, family 10_state: what a command can do to one channel's record, and the statements that read off it. -/

namespace Sys2Proof.Proofs.State

open Sys2Proof Sys2Proof.Machine

/-! ### One record before and after a command -/

/-- What the command `i`, run in the state `s`, can make of the record `c` of channel `k`. -/
inductive RecordStep (i : Instr) (s : State) (k : Nat) (c : Channel) : Channel → Prop
  /-- The record is left alone: another channel is addressed, or the command is answered without an effect. -/
  | kept : RecordStep i s k c c
  /-- The command addresses the channel and its rule runs. -/
  | rule {ch : ChIdx} {c' : Channel} (addressed : i.channel? = some ch) (index : ch.toNat = k)
      (frame : RuleFrame i s.params s.glob c c') : RecordStep i s k c c'
  /-- INIT latches a legal record (R150). -/
  | init {f : ChanCfg} (command : i = .init) (legal : legalChan s.params f = true) :
      RecordStep i s k c (initChannel s.params s.operands.cfg.glob f c)
  /-- DEINIT leaves Bus-Sleep (R151). -/
  | deinit (command : i = .deinit) (asleep : c.state = .busSleep) : RecordStep i s k c { c with state := .uninit }
  /-- TICK visits the timers of an initialised channel (R200). -/
  | tick {idx : ChIdx} {evs : List Event} {back : List Bool} {w : Work} (command : i = .tick)
      (initialised : c.state ≠ .uninit)
      (ticked : tickTimers ⟨s.params, s.glob, idx⟩ s.params.tickOrder ⟨c, evs, back⟩ = .next w) :
      RecordStep i s k c w.chan

/-- Related lists hold related records at the same place. -/
theorem forall₂_getElem? {R : Channel → Channel → Prop} {l l' : List Channel} (h : List.Forall₂ R l l') {k : Nat}
    {c c' : Channel} (hc : l[k]? = some c) (hc' : l'[k]? = some c') : R c c' := by
  obtain ⟨hk, rfl⟩ := List.getElem?_eq_some_iff.mp hc
  obtain ⟨hk', rfl⟩ := List.getElem?_eq_some_iff.mp hc'
  exact h.get hk hk'

/-- A legal record is legal for every channel (R36). -/
theorem legalChan_of_legalCfg {p : Params} {r : CfgRecord} {f : ChanCfg} (h : legalCfg p r = true)
    (hf : f ∈ r.chans) : legalChan p f = true := by
  rw [legalCfg, Bool.and_eq_true, List.all_eq_true] at h
  exact h.2 f hf

/-- Every command makes of every record what `RecordStep` lists. -/
theorem exec_recordStep {i : Instr} {s t : State} {k : Nat} {c c' : Channel} (h : exec i s = .next t)
    (hc : s.chans[k]? = some c) (hc' : t.chans[k]? = some c') : RecordStep i s k c c' := by
  have same : t.chans = s.chans → RecordStep i s k c c' := fun heq => by
    rw [heq, hc] at hc'
    cases hc'
    exact .kept
  cases hi : i.channel? with
  | some ch =>
    rcases exec_channel_eq_next hi h with ⟨-, rfl⟩ | ⟨d, a, hd, ha, rfl⟩
    · exact same rfl
    · by_cases hk : ch.toNat = k
      · subst hk
        rw [commit_chans, List.getElem?_set_self (List.getElem?_eq_some_iff.mp hc).1] at hc'
        rw [hc] at hd
        cases hd
        cases hc'
        exact .rule hi rfl (rule_frame _ _ _ _ _ ha)
      · rw [commit_chans, List.getElem?_set_ne hk, hc] at hc'
        cases hc'
        exact .kept
  | none =>
    rcases channel?_eq_none hi with rfl | rfl | rfl
    · obtain ⟨-, hlegal, rfl⟩ := execInit_eq_next h
      obtain ⟨f, d, hf, hd, rfl⟩ := List.getElem?_zipWith_eq_some.mp hc'
      rw [hc] at hd
      cases hd
      exact .init rfl (legalChan_of_legalCfg hlegal (List.mem_of_getElem? hf))
    · rcases execDeinit_eq_next h with ⟨hall, rfl⟩ | ⟨-, rfl⟩
      · rw [List.getElem?_map, hc] at hc'
        cases hc'
        exact .deinit rfl (hall c (List.mem_of_getElem? hc))
      · exact same rfl
    · rcases execTick_eq_next h with ⟨hall, r, hr, rfl⟩ | ⟨-, rfl⟩
      · have hticked := tickChannels_forall₂
          (R := fun c c' => ∃ (idx : ChIdx) (evs : List Event) (back : List Bool) (w : Work),
            tickTimers ⟨s.params, s.glob, idx⟩ s.params.tickOrder ⟨c, evs, back⟩ = .next w ∧ w.chan = c')
          (fun k c evs back w hw => ⟨_, evs, back, w, hw, rfl⟩) hr
        obtain ⟨_, _, _, _, hw, rfl⟩ := forall₂_getElem? hticked hc hc'
        exact .tick rfl (hall c (List.mem_of_getElem? hc)) hw
      · exact same rfl

/-- TICK writes neither `requested` nor `pn_confirmed`. -/
theorem tickTimers_keeps_flags {e : Env} {Ts : List TimerSel} {w w' : Work} (h : tickTimers e Ts w = .next w') :
    w'.chan.requested = w.chan.requested ∧ w'.chan.pnConfirmed = w.chan.pnConfirmed :=
  tickTimers_induct (P := fun v => v.chan.requested = w.chan.requested ∧ v.chan.pnConfirmed = w.chan.pnConfirmed)
    (fun T v v' ⟨hreq, hpn⟩ ht =>
      have frame := tick_frame e T v v' ht
      ⟨frame.requested.trans hreq, frame.pnConfirmed.trans hpn⟩)
    ⟨rfl, rfl⟩ h

/-- A command that changes a record's `pn_confirmed` is INIT, clearing it, or PNCONF on that channel, setting it. -/
theorem RecordStep.writes_pnConfirmed {i : Instr} {s : State} {k : Nat} {c c' : Channel} (h : RecordStep i s k c c')
    (hne : c'.pnConfirmed ≠ c.pnConfirmed) :
    (i = .init ∧ c'.pnConfirmed = false) ∨ ∃ ch : ChIdx, i = .pnconf ch ∧ ch.toNat = k ∧ c'.pnConfirmed = true := by
  cases h with
  | kept => exact absurd rfl hne
  | rule addressed index frame =>
    obtain ⟨⟨_, rfl⟩, hset⟩ := frame.pnConfirmed hne
    cases addressed
    exact .inr ⟨_, rfl, index, hset⟩
  | init command legal => exact .inl ⟨command, rfl⟩
  | deinit command asleep => exact absurd rfl hne
  | tick command initialised ticked => exact absurd (tickTimers_keeps_flags ticked).2 hne

/-- A command that changes a record's `requested` is INIT or NETREL on that channel, clearing it, or NETREQ on that channel,
setting it. -/
theorem RecordStep.writes_requested {i : Instr} {s : State} {k : Nat} {c c' : Channel} (h : RecordStep i s k c c')
    (hne : c'.requested ≠ c.requested) :
    (i = .init ∧ c'.requested = false)
      ∨ (∃ ch : ChIdx, i = .netreq ch ∧ ch.toNat = k ∧ c'.requested = true)
      ∨ (∃ ch : ChIdx, i = .netrel ch ∧ ch.toNat = k ∧ c'.requested = false) := by
  cases h with
  | kept => exact absurd rfl hne
  | rule addressed index frame =>
    rcases frame.requested hne with ⟨⟨_, rfl⟩, hset⟩ | ⟨⟨_, rfl⟩, hclear⟩ <;> cases addressed
    · exact .inr (.inl ⟨_, rfl, index, hset⟩)
    · exact .inr (.inr ⟨_, rfl, index, hclear⟩)
  | init command legal => exact .inl ⟨command, rfl⟩
  | deinit command asleep => exact absurd rfl hne
  | tick command initialised ticked => exact absurd (tickTimers_keeps_flags ticked).1 hne

/-! ### `pn_confirmed` and `requested` -/

/-- Every record INIT leaves is one it has written. -/
theorem mem_execInit {s t : State} {c : Channel} (h : exec .init s = .next t) (hc : c ∈ t.chans) :
    ∃ f ∈ s.operands.cfg.chans, ∃ d ∈ s.chans, c = initChannel s.params s.operands.cfg.glob f d := by
  obtain ⟨-, -, rfl⟩ := execInit_eq_next h
  obtain ⟨k, hk⟩ := List.mem_iff_getElem?.mp hc
  obtain ⟨f, d, hf, hd, rfl⟩ := List.getElem?_zipWith_eq_some.mp hk
  exact ⟨f, List.mem_of_getElem? hf, d, List.mem_of_getElem? hd, rfl⟩

/-- PNCONF that ends with OK has set the bit. -/
theorem pnconf_ok_sets {o : Operands} {ch : ChIdx} {e : Env} {w : Work} {a : Answer}
    (h : commandRule o (.pnconf ch) e w = .next a) (hok : a.code = .ok) : a.work.chan.pnConfirmed = true := by
  simp only [commandRule, gated, pnconfRule, endWith, done] at h
  split at h
  · cases h; cases hok
  · split at h
    · cases h; cases hok
    · cases h; rfl

/-- Settles O55: the erasure of the bits commutes with every step, and `RecordStep` lists the writers. -/
theorem pnConfirmedInfluencesNothing : Obligations.PnConfirmedInfluencesNothing := by
  refine ⟨fun s s' => step_agreeUpTo_forgetPn,
    fun i s t k c c' h hc hc' => (exec_recordStep h hc hc').writes_pnConfirmed, fun s t c h hc => ?_,
    fun s t ch c r h hr hok hc => ?_⟩
  · obtain ⟨f, -, d, -, rfl⟩ := mem_execInit h hc
    rfl
  · rcases exec_channel_eq_next rfl h with ⟨-, rfl⟩ | ⟨d, a, hd, ha, rfl⟩
    · cases hr
      cases hok
    · rw [commit_rsp] at hr
      cases hr
      rw [commit_chans, List.getElem?_set_self (List.getElem?_eq_some_iff.mp hd).1] at hc
      cases hc
      exact pnconf_ok_sets ha hok

/-- Settles O58, by the writers `RecordStep` lists. -/
theorem requestedIsWrittenByRequestAndRelease : Obligations.RequestedIsWrittenByRequestAndRelease :=
  fun _ _ _ _ _ _ h hc hc' => (exec_recordStep h hc hc').writes_requested

/-! ### Isolation of channels -/

/-- Settles O53: the end of a command puts back one record, and the rule keeps its configuration. -/
theorem channelsAreIsolated : Obligations.ChannelsAreIsolated := by
  intro i ch s t hi h
  rcases exec_channel_eq_next hi h with ⟨-, rfl⟩ | ⟨c, a, hc, ha, rfl⟩
  · exact ⟨rfl, rfl, rfl, rfl, rfl, fun _ _ => rfl⟩
  · have hcfg : a.work.chan.cfg = c.cfg := (rule_frame _ _ _ _ _ ha).cfg
    refine ⟨rfl, rfl, rfl, rfl, ?_, fun k hk => List.getElem?_set_ne (Ne.symm hk)⟩
    obtain ⟨hlt, rfl⟩ := List.getElem?_eq_some_iff.mp hc
    rw [commit_chans, List.map_set, hcfg, ← List.getElem_map Channel.cfg (h := by simpa using hlt), List.set_getElem_self]

/-! ### Legal positions -/

/-- A present position of a legal record lies below the number of present positions (R36(c)). -/
theorem toNat_lt_of_legalPos {p : Params} {c : ChanCfg} {pos : Byte} (h : legalPos p c pos = true)
    (hp : pos ≠ p.absent) : pos.toNat < udOff p c := by
  simpa [legalPos, present, hp] using h

/-- What a legal record says of the two positions (R36(c), (d)). -/
theorem positions_of_legalChan {p : Params} {c : ChanCfg} (h : legalChan p c = true) :
    legalPos p c c.nidPos = true ∧ legalPos p c c.cbvPos = true
      ∧ (c.nidPos ≠ p.absent → c.cbvPos ≠ p.absent → c.nidPos ≠ c.cbvPos) := by
  simp only [legalChan, Bool.and_eq_true] at h
  obtain ⟨⟨⟨⟨⟨⟨-, hnid⟩, hcbv⟩, hne⟩, -⟩, -⟩, -⟩ := h
  refine ⟨hnid, hcbv, fun hn hc => ?_⟩
  simpa [present, hn, hc] using hne

theorem udOff_eq (p : Params) (c : ChanCfg) :
    udOff p c = (if c.nidPos = p.absent then 0 else 1) + (if c.cbvPos = p.absent then 0 else 1) := by
  by_cases hn : c.nidPos = p.absent <;> by_cases hc : c.cbvPos = p.absent <;> simp [udOff, present, hn, hc]

/-- Settles O11, by which of the two positions are present. -/
theorem legalPositionsAreTheFivePairs : Obligations.LegalPositionsAreTheFivePairs := by
  intro p c _ h
  obtain ⟨hnid, hcbv, hne⟩ := positions_of_legalChan h
  by_cases hn : c.nidPos = p.absent <;> by_cases hc : c.cbvPos = p.absent
  · exact .inl ⟨hn, hc⟩
  · have hlt := toNat_lt_of_legalPos hcbv hc
    rw [udOff_eq, if_pos hn, if_neg hc] at hlt
    exact .inr (.inr (.inl ⟨hn, by bv_omega⟩))
  · have hlt := toNat_lt_of_legalPos hnid hn
    rw [udOff_eq, if_neg hn, if_pos hc] at hlt
    exact .inr (.inl ⟨by bv_omega, hc⟩)
  · have hltn := toNat_lt_of_legalPos hnid hn
    have hltc := toNat_lt_of_legalPos hcbv hc
    have hdiff := hne hn hc
    rw [udOff_eq, if_neg hn, if_neg hc] at hltn hltc
    have hcases : (c.nidPos = 0 ∧ c.cbvPos = 1) ∨ (c.nidPos = 1 ∧ c.cbvPos = 0) := by bv_omega
    exact .inr (.inr (.inr hcases))

/-! ### Pairs of mode and state -/

/-- The reset record's pair is legal, and every channel is in Uninit. -/
theorem pairInv_resetWith (p : Params) (n : Nat) (port : List Input) : PairInv (State.resetWith p n port) := by
  have hreset : ∀ c ∈ (State.resetWith p n port).chans, c = .reset := fun c hc => List.eq_of_mem_replicate hc
  exact ⟨fun c hc => hreset c hc ▸ rfl, .inl fun c hc => hreset c hc ▸ rfl⟩

/-- The mode a legal pair has with Bus-Sleep. -/
theorem mode_eq_of_asleep {m : Mode} {st : NmState} (h : legalPair m st = true) (hs : st = .busSleep) :
    m = .busSleep := by
  subst hs
  revert h
  cases m <;> decide

/-- Every command keeps legal pairs legal. -/
theorem exec_keeps_legalPair {i : Instr} {s t : State} (hs : ∀ c ∈ s.chans, legalPair c.mode c.state = true)
    (h : exec i s = .next t) : ∀ c ∈ t.chans, legalPair c.mode c.state = true :=
  exec_keeps_channelwise (fun _ _ c => legalPair c.mode c.state = true)
    (fun _ _ _ _ _ ha => (rule_frame _ _ _ _ _ ha).legal)
    (fun e T w w' hu hl ht =>
      have frame := tick_frame e T w w' ht
      ⟨frame.legal hl, frame.initialised hu⟩)
    (fun _ _ _ _ _ _ _ => rfl)
    (fun _ _ c hs hl => by simp only [mode_eq_of_asleep hl hs, legalPair])
    i s t hs h

/-- Every command keeps the number of channels. -/
theorem exec_chans_length {i : Instr} {s t : State} (h : exec i s = .next t) : t.chans.length = s.chans.length := by
  cases hi : i.channel? with
  | some ch =>
    rcases exec_channel_eq_next hi h with ⟨-, rfl⟩ | ⟨c, a, -, -, rfl⟩
    · rfl
    · exact List.length_set
  | none =>
    rcases channel?_eq_none hi with rfl | rfl | rfl
    · obtain ⟨hlen, -, rfl⟩ := execInit_eq_next h
      exact List.length_zipWith.trans (min_eq_right hlen.ge)
    · rcases execDeinit_eq_next h with ⟨-, rfl⟩ | ⟨-, rfl⟩
      · exact List.length_map ..
      · rfl
    · rcases execTick_eq_next h with ⟨-, r, hr, rfl⟩ | ⟨-, rfl⟩
      · exact (tickChannels_forall₂ (R := fun _ _ => True) (fun _ _ _ _ _ _ => trivial) hr).length_eq.symm
      · rfl

/-- Every record after a command is what the command made of one before. -/
theorem exists_recordStep_of_mem {i : Instr} {s t : State} {c' : Channel} (h : exec i s = .next t)
    (hc' : c' ∈ t.chans) : ∃ k, ∃ c ∈ s.chans, RecordStep i s k c c' := by
  obtain ⟨k, hk, rfl⟩ := List.mem_iff_getElem.mp hc'
  have hlt : k < s.chans.length := exec_chans_length h ▸ hk
  exact ⟨k, s.chans[k], List.getElem_mem hlt,
    exec_recordStep h (List.getElem?_eq_getElem hlt) (List.getElem?_eq_getElem hk)⟩

/-- Only INIT takes a channel out of Uninit. -/
theorem RecordStep.stays_uninit {i : Instr} {s : State} {k : Nat} {c c' : Channel} (h : RecordStep i s k c c')
    (hi : i ≠ .init) (hu : c.state = .uninit) : c'.state = .uninit := by
  cases h with
  | kept => exact hu
  | rule addressed index frame => rw [frame.uninit hu, hu]
  | init command legal => exact absurd command hi
  | deinit command asleep => rfl
  | tick command initialised ticked => exact absurd hu initialised

/-- Only DEINIT takes a channel into Uninit. -/
theorem RecordStep.stays_initialised {i : Instr} {s : State} {k : Nat} {c c' : Channel} (h : RecordStep i s k c c')
    (hi : i ≠ .deinit) (hu : c.state ≠ .uninit) : c'.state ≠ .uninit := by
  cases h with
  | kept => exact hu
  | rule addressed index frame => exact frame.initialised hu
  | init command legal => exact nofun
  | deinit command asleep => exact absurd command hi
  | tick command initialised ticked =>
    exact tickTimers_induct (P := fun v => v.chan.state ≠ .uninit) (fun T v v' hv ht => (tick_frame _ T v v' ht).initialised hv)
      hu ticked

/-- Every command leaves all channels in Uninit or none, from all or none. -/
theorem exec_keeps_uninit_uniform {i : Instr} {s t : State}
    (hs : (∀ c ∈ s.chans, c.state = .uninit) ∨ (∀ c ∈ s.chans, c.state ≠ .uninit)) (h : exec i s = .next t) :
    (∀ c ∈ t.chans, c.state = .uninit) ∨ (∀ c ∈ t.chans, c.state ≠ .uninit) := by
  by_cases hinit : i = .init
  · subst hinit
    refine .inr fun c' hc' => ?_
    obtain ⟨f, -, d, -, rfl⟩ := mem_execInit h hc'
    exact nofun
  · by_cases hdeinit : i = .deinit
    · subst hdeinit
      rcases execDeinit_eq_next h with ⟨-, rfl⟩ | ⟨-, rfl⟩
      · refine .inl fun c' hc' => ?_
        obtain ⟨c, -, rfl⟩ := List.mem_map.mp hc'
        rfl
      · exact hs
    · refine hs.imp (fun hall c' hc' => ?_) fun hnone c' hc' => ?_ <;>
        obtain ⟨k, c, hc, hstep⟩ := exists_recordStep_of_mem h hc'
      · exact hstep.stays_uninit hinit (hall c hc)
      · exact hstep.stays_initialised hdeinit (hnone c hc)

/-- Every step keeps both invariants of the pair. -/
theorem step_keeps_pairInv {s t : State} (hs : PairInv s) (h : step s = .next t) : PairInv t := by
  rcases step_eq_next h with ⟨-, rfl⟩ | ⟨rest, -, rfl⟩ | ⟨c, rest, err, -, -, rfl⟩ | ⟨c, rest, i, -, -, h⟩
  · exact hs
  · exact pairInv_resetWith _ _ _
  · exact hs
  · obtain ⟨hlegal, huniform⟩ := hs
    exact ⟨exec_keeps_legalPair (s := accept s c rest) hlegal h, exec_keeps_uninit_uniform (s := accept s c rest) huniform h⟩

/-- Settles O46, clause by clause: the table, reset, and the step. -/
theorem modeAndStateStayALegalPair : Obligations.ModeAndStateStayALegalPair := by
  refine ⟨fun m st => ?_, pairInv_resetWith _ _ _, fun s t => step_keeps_pairInv⟩
  cases m <;> cases st <;> decide

/-! ### Reset -/

/-- The invariant holds of every reset state (R240): no channel is initialised, no flag is set and no timer runs. -/
theorem inv_resetWith {p : Params} {n : Nat} (port : List Input) (hn : 1 ≤ n ∧ n ≤ 256) (hp : p.wf = true) :
    Inv (State.resetWith p n port) := by
  have hreset : ∀ c ∈ (State.resetWith p n port).chans, c = .reset := fun c hc => List.eq_of_mem_replicate hc
  have hlen : (State.resetWith p n port).nCh = n := List.length_replicate
  exact {
    params := hp
    channels := by rwa [hlen]
    pair := pairInv_resetWith p n port
    memory := resetWith_memWf p n port
    passive := fun c hc htx => by rw [hreset c hc] at htx; cases htx
    repeatTimer := fun c hc hrun => by rw [hreset c hc] at hrun; cases hrun
    ready := fun c hc hu => absurd (hreset c hc ▸ rfl) hu
    frame := fun c hc hu => absurd (hreset c hc ▸ rfl) hu }

/-- Settles O51. -/
theorem resetHasTheInvariant : Obligations.ResetHasTheInvariant :=
  ⟨inv_resetWith [] (by decide) (by decide), fun _ _ port h1 h256 hp => inv_resetWith port ⟨h1, h256⟩ hp⟩

end Sys2Proof.Proofs.State
end

section
/-! PROOFS, family 10_state: R15, R226, R230. Transmit requests come from BUSSYNC and from the message-cycle handler alone,
and neither makes one while the transmit-enable bit is 0. -/

namespace Sys2Proof.Proofs.State

open Sys2Proof Sys2Proof.Machine

/-! ### Transmit requests among the events -/

@[simp] theorem txCount_append (evs evs' : List Event) : txCount (evs ++ evs') = txCount evs + txCount evs' := by
  simp [txCount]

@[simp] theorem txCount_scEvents (g : GlobCfg) (ch : ChIdx) (old new : NmState) :
    txCount (scEvents g ch old new) = 0 := by
  unfold scEvents
  split <;> rfl

@[simp] theorem txCount_cancelEvents (c : Channel) (ch : ChIdx) : txCount (cancelEvents c ch) = 0 := by
  unfold cancelEvents
  split <;> rfl

/-- The number of transmit requests a command in progress has made. -/
def requests (w : Work) : Nat := txCount w.events

@[simp] theorem requests_withChan (w : Work) (c : Channel) : requests (withChan w c) = requests w := rfl

/-- An event that is no transmit request leaves the number of them. -/
theorem requests_emit {ev : Event} (h : txCount [ev] = 0) (w : Work) : requests (emit ev w) = requests w := by
  rw [requests, emit_events, txCount_append, h]
  rfl

/-! ### Procedures that make no transmit request -/

@[simp] theorem requests_sc (e : Env) (old new : NmState) (w : Work) : requests (sc e old new w) = requests w := by
  simp [requests]

@[simp] theorem requests_cancelRsi (e : Env) (w : Work) : requests (cancelRsi e w) = requests w := by
  simp [requests]

@[simp] theorem requests_txTimeoutNote (e : Env) (w : Work) : requests (txTimeoutNote e w) = requests w := by
  unfold txTimeoutNote
  split
  · exact requests_emit rfl w
  · rfl

@[simp] theorem requests_rearmTimeout (w : Work) : requests (rearmTimeout w) = requests w := rfl

@[simp] theorem requests_wake (e : Env) (b : Bool) (w : Work) : requests (wake e b w) = requests w :=
  (requests_sc ..).trans (requests_emit rfl _)

@[simp] theorem requests_trBsBs (e : Env) (w : Work) : requests (trBsBs e w) = requests w :=
  (requests_sc ..).trans (requests_emit rfl w)

@[simp] theorem requests_trNoRm (e : Env) (b : Bool) (w : Work) : requests (trNoRm e b w) = requests w := by
  simp [trNoRm]

@[simp] theorem requests_trNoRs (e : Env) (w : Work) : requests (trNoRs e w) = requests w := by simp [trNoRs]

@[simp] theorem requests_trRsNo (e : Env) (w : Work) : requests (trRsNo e w) = requests w := by simp [trRsNo]

@[simp] theorem requests_trRsRm (e : Env) (b : Bool) (w : Work) : requests (trRsRm e b w) = requests w := by
  simp [trRsRm]

@[simp] theorem requests_trRmReenter (w : Work) : requests (trRmReenter w) = requests w := rfl

@[simp] theorem requests_trPbsBs (e : Env) (w : Work) : requests (trPbsBs e w) = requests w :=
  (requests_sc ..).trans (requests_emit rfl _)

theorem requests_trRsPbs {e : Env} {w w' : Work} (h : trRsPbs e w = .next w') : requests w' = requests w := by
  obtain ⟨tx', -, rfl⟩ := trRsPbs_eq_next h
  rw [requests, List.append_cons, txCount_append, txCount_append, txCount_scEvents]
  rfl

theorem requests_trRmNo {e : Env} {w w' : Work} (h : trRmNo e w = .next w') : requests w' = requests w := by
  obtain ⟨tx', -, rfl⟩ := trRmNo_eq_next h
  simp [requests]

theorem requests_trRmRs {e : Env} {w w' : Work} (h : trRmRs e w = .next w') : requests w' = requests w := by
  obtain ⟨tx', -, rfl⟩ := trRmRs_eq_next h
  simp [requests]

/-! ### Commands -/

theorem requests_netreqAwake (e : Env) (w : Work) : requests (netreqAwake e w) = requests w := by
  unfold netreqAwake
  split
  · split <;> simp
  · split <;> simp

theorem requests_rxReact (e : Env) (rmr : Bool) (w : Work) : requests (rxReact e rmr w) = requests w := by
  have hself : requests (rxSelf w) = requests w := by rw [rxSelf_eq_rearmTimeout, requests_rearmTimeout]
  have hsleep : ∀ w, requests (rxRemoteSleep e w) = requests w := fun w => by
    unfold rxRemoteSleep
    dsimp only
    split
    · split <;> simp
    · rfl
  have hreduced : ∀ w, requests (rxReduced w) = requests w := fun w => by
    unfold rxReduced
    split <;> rfl
  have hbit : ∀ w, requests (rxRepeatBit e rmr w) = requests w := fun w => by
    unfold rxRepeatBit
    split
    · split <;> simp
    · rfl
  unfold rxReact
  split
  · exact requests_trBsBs e w
  · exact requests_wake e false w
  · rw [hbit, hreduced, hsleep, hself]

/-- The outcome of a rule, if it goes on, has made as many transmit requests as `w`. -/
def Quiet (w : Work) (o : Out Answer) : Prop := ∀ a, o = .next a → requests a.work = requests w

theorem Quiet.next {w : Work} {a : Answer} (h : requests a.work = requests w) : Quiet w (.next a) := by
  rintro _ ⟨⟩
  exact h

theorem Quiet.refused (w : Work) (r : Refusal) : Quiet w (.refused r) := by
  rintro _ ⟨⟩

theorem Quiet.ite {w : Work} {P : Prop} [Decidable P] {o o' : Out Answer} (h : Quiet w o) (h' : Quiet w o') :
    Quiet w (if P then o else o') := by
  split
  · exact h
  · exact h'

theorem Quiet.andThen {α : Type} {w : Work} {o : Out α} {k : α → Out Answer} (h : ∀ x, o = .next x → Quiet w (k x)) :
    Quiet w (andThen o k) := by
  intro a ha
  obtain ⟨x, hx, ha⟩ := andThen_eq_next.mp ha
  exact h x hx a ha

theorem Quiet.requireStream {w : Work} {din : List Byte} {n : Nat} {o : Out Answer} (h : Quiet w o) :
    Quiet w (requireStream din n o) := .ite h (.refused w _)

/-- The refusal in Uninit makes no transmit request. -/
theorem Quiet.gated {rule : Env → Work → Out Answer} {e : Env} {w : Work} (h : Quiet w (rule e w)) :
    Quiet w (gated rule e w) := .ite (.next rfl) h

theorem quiet_netreqRule (e : Env) (w : Work) : Quiet w (netreqRule e w) := by
  have asleep : ∀ c, Quiet w (andThen (netreqAsleep e (withChan w c)) done) := fun c => .andThen fun w2 hw => by
    obtain ⟨tx', -, rfl⟩ := netreqAsleep_eq_next hw
    exact .next (requests_wake ..)
  unfold netreqRule
  dsimp only
  split
  · exact asleep _
  · exact asleep _
  · exact .next (requests_netreqAwake ..)

theorem quiet_netrelRule (e : Env) (w : Work) : Quiet w (netrelRule e w) := by
  refine .next ?_
  dsimp only
  split
  · exact requests_trNoRs ..
  · rfl

theorem quiet_rmreqRule (e : Env) (w : Work) : Quiet w (rmreqRule e w) := by
  refine .ite (.next rfl) (.andThen fun c _ => .next ?_)
  split
  · exact requests_trRsRm ..
  · exact requests_trNoRm ..

theorem quiet_txconfRule (failed : Bool) (e : Env) (w : Work) : Quiet w (txconfRule failed e w) := by
  have hw : requests (if failed = false ∧ w.chan.mode = .network then rearmTimeout w else w) = requests w := by
    split <;> rfl
  refine .next ?_
  dsimp only
  split
  · exact (requests_emit rfl _).trans hw
  · exact hw

theorem quiet_rxindRule (f : List Byte) (e : Env) (w : Work) : Quiet w (rxindRule f e w) := by
  refine .requireStream (.andThen fun c _ => .next ((requests_rxReact ..).trans ?_))
  split
  · exact requests_emit rfl _
  · rfl

/-- No command on a channel makes a transmit request while the channel's transmit-enable bit is 0: BUSSYNC, the only one
that makes any, is refused (R158). -/
theorem quiet_commandRule (o : Operands) (i : Instr) (e : Env) {w : Work} (htx : w.chan.txEnabled = false) :
    Quiet w (commandRule o i e w) := by
  cases i with
  | init => exact .next rfl
  | deinit => exact .next rfl
  | tick => exact .next rfl
  | getst ch => exact .next rfl
  | bussync ch =>
    have hrefused : bussyncRule e w = endWith .ePrecond w := if_pos (.inl htx)
    exact .gated (hrefused ▸ .next rfl)
  | netreq ch => exact .gated (quiet_netreqRule e w)
  | netrel ch => exact .gated (quiet_netrelRule e w)
  | pstart ch => exact .gated (.ite (.next rfl) (.next (requests_wake ..)))
  | encom ch => exact .gated (.ite (.next rfl) (.next rfl))
  | discom ch => exact .gated (.ite (.next rfl) (.next rfl))
  | rmreq ch => exact .gated (quiet_rmreqRule e w)
  | chkrsi ch => exact .gated (.ite (.next rfl) (.next rfl))
  | setsrb ch => exact .gated (.ite (.next rfl) (.andThen fun _ _ => .next rfl))
  | pnconf ch => exact .gated (.ite (.next rfl) (.next rfl))
  | setud ch => exact .gated (.requireStream (.ite (.next rfl) (.andThen fun _ _ => .next rfl)))
  | getud ch => exact .gated (.ite (.next rfl) (.andThen fun _ _ => .next rfl))
  | getnid ch => exact .gated (.ite (.next rfl) (.andThen fun _ _ => .next rfl))
  | getlnid ch => exact .gated (.ite (.next rfl) (.next rfl))
  | getpdu ch => exact .gated (.ite (.next rfl) (.andThen fun _ _ => .next rfl))
  | trigtx ch => exact .gated (.ite (.next rfl) (.andThen fun _ _ => .next rfl))
  | txconf failed ch => exact .gated (quiet_txconfRule failed e w)
  | rxind ch => exact .gated (quiet_rxindRule _ e w)

/-! ### TICK -/

/-- No expiry handler makes a transmit request while the channel's transmit-enable bit is 0 (R221). -/
theorem requests_expire {e : Env} {T : TimerSel} {w w' : Work} (htx : w.chan.txEnabled = false)
    (h : expire e T w = .next w') : requests w' = requests w := by
  cases T with
  | timeout =>
    rcases expireTimeout_eq_next h with ⟨-, rfl⟩ | ⟨-, h⟩ | ⟨-, -, -, rfl⟩
    · rw [requests_txTimeoutNote, requests_rearmTimeout]
    · exact requests_trRsPbs h
    · rfl
  | msgCycle =>
    rcases expireMsgCycle_eq_next h with ⟨⟨-, hen⟩, -⟩ | ⟨-, rfl⟩
    · rw [htx] at hen
      cases hen
    · rfl
  | repeatMsg =>
    rcases expireRepeatMsg_eq_next h with ⟨-, -, h⟩ | ⟨-, -, h⟩ | ⟨-, rfl⟩
    · exact requests_trRmNo h
    · exact requests_trRmRs h
    · rfl
  | waitBusSleep =>
    rcases expireWaitBusSleep_eq_next h with ⟨-, rfl⟩ | ⟨-, rfl⟩
    · exact requests_trPbsBs e w
    · rfl
  | remoteSleep =>
    rcases expireRemoteSleep_eq_next h with ⟨-, rfl⟩ | ⟨-, rfl⟩
    · exact requests_emit rfl w
    · rfl

theorem requests_tTick {e : Env} {T : TimerSel} {d : Dur} {w w' : Work} (htx : w.chan.txEnabled = false)
    (h : tTick (expire e) T d w = .next w') : requests w' = requests w := by
  rcases tTick_cases (expire e) T d w with ⟨-, h'⟩ | ⟨-, -, h'⟩ | ⟨-, -, h'⟩ <;> rw [h'] at h
  · cases h; rfl
  · cases h; rfl
  · exact requests_expire (w := withChan w (expiryEntry w.chan T)) htx h

/-- The ticks of a passive block's channel keep its transmit-enable bit 0 and make no transmit request. -/
theorem requests_tickTimers {e : Env} {Ts : List TimerSel} {w w' : Work} (hpassive : e.glob.passive = true)
    (htx : w.chan.txEnabled = false) (h : tickTimers e Ts w = .next w') : requests w' = requests w := by
  refine (tickTimers_induct (P := fun v => v.chan.txEnabled = false ∧ requests v = requests w)
    (fun T v v' ⟨htxv, hv⟩ ht => ⟨?_, (requests_tTick htxv ht).trans hv⟩) ⟨htx, rfl⟩ h).2
  by_contra hen
  have hact := (tick_frame e T v v' ht).passive (fun h => by rw [htxv] at h; cases h) (by simpa using hen)
  rw [hpassive] at hact
  cases hact

theorem txCount_tickChannels {p : Params} {g : GlobCfg} (hpassive : g.passive = true) {cs : List Channel} {k : Nat}
    {evs : List Event} {back : List Bool} {r : List Channel × List Event} (htx : ∀ c ∈ cs, c.txEnabled = false)
    (h : tickChannels p g k cs evs back = .next r) : txCount r.2 = txCount evs := by
  induction cs generalizing k evs back r with
  | nil => cases h; rfl
  | cons c cs ih =>
    obtain ⟨w, r', hw, hr, rfl⟩ := tickChannels_cons.mp h
    have hc : requests w = txCount evs := requests_tickTimers hpassive (htx c (by simp)) hw
    exact (ih (fun d hd => htx d (by simp [hd])) hr).trans hc

/-! ### The passive block -/

/-- Every command keeps R15. -/
theorem exec_keeps_passiveInv {i : Instr} {s t : State} (hs : PassiveInv s) (h : exec i s = .next t) : PassiveInv t :=
  exec_keeps_channelwise (fun _ g c => c.txEnabled = true → g.passive = false)
    (fun _ _ _ _ _ ha => (rule_frame _ _ _ _ _ ha).passive)
    (fun e T w w' hu hp ht =>
      have frame := tick_frame e T w w' ht
      ⟨frame.passive hp, frame.initialised hu⟩)
    (fun _ _ _ _ _ _ _ => nofun) (fun _ _ _ _ hp => hp) i s t hs h

/-- A passive block with R15 has no channel enabled. -/
theorem txEnabled_eq_false {s : State} (hs : PassiveInv s) (hpassive : s.glob.passive = true) :
    ∀ c ∈ s.chans, c.txEnabled = false := fun c hc => by
  by_contra hen
  have := hs c hc (by simpa using hen)
  rw [hpassive] at this
  cases this

/-- The response of a command to a passive block has no transmit request. -/
theorem txCount_rsp_eq_zero {i : Instr} {s t : State} {r : Response} (hs : PassiveInv s)
    (hpassive : s.glob.passive = true) (h : exec i s = .next t) (hr : t.rsp = some r) : txCount r.events = 0 := by
  have htx := txEnabled_eq_false hs hpassive
  cases hi : i.channel? with
  | some ch =>
    rcases exec_channel_eq_next hi h with ⟨-, rfl⟩ | ⟨c, a, hc, ha, rfl⟩
    · cases hr; rfl
    · cases hr
      exact quiet_commandRule _ i _ (htx c (List.mem_of_getElem? hc)) a ha
  | none =>
    rcases channel?_eq_none hi with rfl | rfl | rfl
    · obtain ⟨-, -, rfl⟩ := execInit_eq_next h
      cases hr; rfl
    · rcases execDeinit_eq_next h with ⟨-, rfl⟩ | ⟨-, rfl⟩ <;> cases hr <;> rfl
    · rcases execTick_eq_next h with ⟨-, r', hticked, rfl⟩ | ⟨-, rfl⟩ <;> cases hr
      · exact txCount_tickChannels hpassive htx hticked
      · rfl

/-- Settles O48: R15 is kept record by record, and under it nothing that transmits is enabled in a passive block. -/
theorem passiveBlockNeverTransmits : Obligations.PassiveBlockNeverTransmits :=
  ⟨step_keeps_channelwise (fun _ g c => c.txEnabled = true → g.passive = false)
      (fun _ _ _ => exec_keeps_passiveInv) (fun _ => nofun),
    fun _ _ _ _ => txCount_rsp_eq_zero⟩

end Sys2Proof.Proofs.State
end

section
/-! PROOFS, family 20_memory: R61. A command on a channel reads and writes that channel's record alone, so two commands on
different channels can be exchanged. -/

namespace Sys2Proof.Proofs.Memory

open Sys2Proof Sys2Proof.Machine

/-! ### What a command on a channel reads -/

/-- The two states agree on what a command on the channel `ch` can read: the parameters, the global configuration, the
operands and the record of `ch`. -/
structure SameView (ch : ChIdx) (s s' : State) : Prop where
  params : s'.params = s.params
  glob : s'.glob = s.glob
  operands : s'.operands = s.operands
  record : s'.chans[ch.toNat]? = s.chans[ch.toNat]?

theorem SameView.symm {ch : ChIdx} {s s' : State} (h : SameView ch s s') : SameView ch s' s :=
  ⟨h.params.symm, h.glob.symm, h.operands.symm, h.record.symm⟩

theorem SameView.envOf_eq {ch : ChIdx} {s s' : State} (h : SameView ch s s') : envOf s' ch = envOf s ch := by
  rw [envOf, envOf, h.params, h.glob]

theorem SameView.startWork_eq {ch : ChIdx} {s s' : State} (h : SameView ch s s') (c : Channel) :
    startWork s' c = startWork s c := by
  rw [startWork, startWork, h.operands]

/-! ### Locality -/

/-- The end of a command leaves the record of the answer in the channel it addresses. -/
theorem commit_record {ch : ChIdx} {s : State} {c : Channel} (h : s.chans[ch.toNat]? = some c) (a : Answer) :
    (commit s ch a).chans[ch.toNat]? = some a.work.chan :=
  List.getElem?_set_self (List.getElem?_eq_some_iff.mp h).1

/-- A command on a channel goes on alike from two states that agree on what it can read: with the same response, and with
the same record of its channel. -/
theorem exec_channel_local {i : Instr} {ch : ChIdx} {s s' t : State} (hi : i.channel? = some ch)
    (hview : SameView ch s s') (h : exec i s = .next t) :
    ∃ t', exec i s' = .next t' ∧ t'.rsp = t.rsp ∧ t'.chans[ch.toNat]? = t.chans[ch.toNat]? := by
  rw [exec_of_channel hi s', hview.operands]
  rcases exec_channel_eq_next hi h with ⟨hnone, rfl⟩ | ⟨c, a, hc, ha, rfl⟩
  · exact ⟨_, onAnyChannel_none (hview.record.trans hnone) _, rfl, hview.record⟩
  · have hc' := hview.record.trans hc
    rw [onAnyChannel_some hc', hview.envOf_eq, hview.startWork_eq, ha]
    exact ⟨_, rfl, rfl, (commit_record hc' a).trans (commit_record hc a).symm⟩

/-- A command on a channel leaves every other record, whatever its operands (O53). -/
theorem exec_keeps_record {i : Instr} {ch : ChIdx} {s t : State} {o : Operands} {k : Nat} (hi : i.channel? = some ch)
    (h : exec i { s with operands := o } = .next t) (hk : k ≠ ch.toNat) : t.chans[k]? = s.chans[k]? := by
  obtain ⟨-, -, -, -, -, hother⟩ := Proofs.State.channelsAreIsolated i ch _ t hi h
  exact hother k hk

/-- A command on another channel leaves what a command on `ch` can read, whatever the operands of the two. -/
theorem exec_keeps_view {i : Instr} {a ch : ChIdx} {s t : State} {o : Operands} (hi : i.channel? = some a) (hne : ch ≠ a)
    (h : exec i { s with operands := o } = .next t) (o' : Operands) :
    SameView ch { s with operands := o' } { t with operands := o' } := by
  obtain ⟨hglob, hparams, -, -, -, -⟩ := Proofs.State.channelsAreIsolated i a _ t hi h
  exact ⟨hparams, hglob, rfl, exec_keeps_record (s := s) (t := t) hi h (BitVec.toNat_ne.mp hne)⟩

/-! ### Exchange -/

/-- Settles O54: each command finds its channel as the other order would leave it (`exec_keeps_view`), so it answers alike
(`exec_channel_local`); the channels then agree at `a`, at `b` and, where neither writes, elsewhere (`exec_keeps_record`). -/
theorem commandsOnDifferentChannelsCommute : Obligations.CommandsOnDifferentChannelsCommute := by
  intro i j a b s t u oi oj hi hj hab ht hu
  obtain ⟨t', ht', htrsp, hb⟩ := exec_channel_local hj (exec_keeps_view hi hab.symm ht oj).symm hu
  obtain ⟨u', hu', hursp, ha⟩ := exec_channel_local hi (exec_keeps_view hj hab ht' oi) ht
  have hne : a.toNat ≠ b.toNat := BitVec.toNat_ne.mp hab
  refine ⟨t', u', ht', hu', List.ext_getElem? fun k => ?_, htrsp, hursp⟩
  by_cases hka : k = a.toNat
  · subst hka
    exact ha.trans (exec_keeps_record hj hu hne).symm
  · by_cases hkb : k = b.toNat
    · subst hkb
      exact (exec_keeps_record hi hu' hka).trans hb
    · calc u'.chans[k]? = t'.chans[k]? := exec_keeps_record hi hu' hka
        _ = s.chans[k]? := exec_keeps_record hj ht' hkb
        _ = t.chans[k]? := (exec_keeps_record hi ht hka).symm
        _ = u.chans[k]? := (exec_keeps_record hj hu hkb).symm

end Sys2Proof.Proofs.Memory
end

section
/-! PROOFS, family 30_encoding: R72 to R75. A word is its three fields; a word decodes to a command exactly when it is the
command's word; and a word that is no command, or names a channel the block does not have, is answered `E_ILLEGAL`. -/

namespace Sys2Proof.Proofs.Encoding

open Sys2Proof Sys2Proof.Machine Sys2Proof.Laws

/-! ### The fields of a word -/

/-- The `arg` field of a command's word: TXCONF carries its result in bit 0, every other command 0 (R75, R186). -/
def argOf : Instr → BitVec 3
  | .txconf failed _ => if failed then 1 else 0
  | _ => 0

/-- The `ch` field of a command's word: 0 where the command carries no channel (R75). -/
def chOf (i : Instr) : ChIdx := i.channel?.getD 0

theorem encode_eq_packWord (i : Instr) : encode i = packWord (opcodeOf i) (argOf i) (chOf i) := by
  cases i <;> rfl

/-- A word is made of its three fields and nothing else (R72). -/
theorem packWord_of_fields (w : CmdWord) : packWord (opField w) (argField w) (chField w) = w := by
  have upper : opField w ++ argField w = w.extractLsb' 8 8 := BitVec.extractLsb'_append_extractLsb'_eq_extractLsb' rfl
  calc packWord (opField w) (argField w) (chField w)
    _ = w.extractLsb' 8 8 ++ chField w := congrArg (· ++ chField w) upper
    _ = w.extractLsb' 0 16 := BitVec.extractLsb'_append_extractLsb'_eq_extractLsb' rfl
    _ = w := BitVec.extractLsb'_eq_self

theorem fields_encode (i : Instr) :
    opField (encode i) = opcodeOf i ∧ argField (encode i) = argOf i ∧ chField (encode i) = chOf i := by
  rw [encode_eq_packWord]
  exact packWord_fields _ _ _

theorem encode_eq_of_fields {w : CmdWord} {i : Instr} (hop : (opField w).toNat = (opcodeOf i).toNat)
    (harg : argField w = argOf i) (hch : chField w = chOf i) : encode i = w := by
  rw [encode_eq_packWord, ← BitVec.eq_of_toNat_eq hop, ← harg, ← hch, packWord_of_fields]

/-! ### The fields of a command -/

/-- No command has a reserved opcode (R74). -/
theorem opcodeOf_range (i : Instr) : 0 < (opcodeOf i).toNat ∧ (opcodeOf i).toNat < 0x17 := by
  cases i <;> simp [opcodeOf]

/-- Only TXCONF uses `arg`. -/
theorem argOf_eq_zero {i : Instr} (h : (opcodeOf i).toNat ≠ 0x11) : argOf i = 0 := by
  cases i with
  | txconf failed ch => exact absurd rfl h
  | _ => rfl

theorem upper_bits_of_result : ∀ failed : Bool, (if failed then 1 else 0 : BitVec 3).extractLsb' 1 2 = 0 := by decide

theorem bit_zero_of_result : ∀ failed : Bool, (if failed then 1 else 0 : BitVec 3).getLsbD 0 = failed := by decide

/-- No command uses the two upper bits of `arg`. -/
theorem argOf_upper_bits (i : Instr) : (argOf i).extractLsb' 1 2 = 0 := by
  cases i with
  | txconf failed ch => exact upper_bits_of_result failed
  | _ => exact upper_bits_of_result false

/-- INIT, DEINIT and TICK carry no channel. -/
theorem channel?_eq_none_iff (i : Instr) :
    i.channel? = none ↔
      (opcodeOf i).toNat = 0x01 ∨ (opcodeOf i).toNat = 0x02 ∨ (opcodeOf i).toNat = 0x15 := by
  cases i <;> simp [Instr.channel?, opcodeOf]

/-! ### The decoder -/

theorem decodeGlobal_eq_ok {w : CmdWord} {j i : Instr} :
    decodeGlobal w j = .ok i ↔ argField w = 0 ∧ chField w = 0 ∧ j = i := by
  unfold decodeGlobal
  split
  · simp_all
  · split <;> simp_all

theorem decodeChannel_eq_ok {w : CmdWord} {j : ChIdx → Instr} {i : Instr} :
    decodeChannel w j = .ok i ↔ argField w = 0 ∧ j (chField w) = i := by
  unfold decodeChannel
  split <;> simp_all

theorem decodeResult_eq_ok {w : CmdWord} {j : Bool → ChIdx → Instr} {i : Instr} :
    decodeResult w j = .ok i ↔
      (argField w).extractLsb' 1 2 = 0 ∧ j ((argField w).getLsbD 0) (chField w) = i := by
  unfold decodeResult
  split <;> simp_all

/-- An `arg` field without its two upper bits is its bit 0. -/
theorem eq_bit_zero_of_upper_bits : ∀ {a : BitVec 3}, a.extractLsb' 1 2 = 0 → a = if a.getLsbD 0 then 1 else 0 := by
  decide

/-- A word that decodes to a command is that command's word: the opcode picks the arm, and the arm reads the other two
fields. -/
theorem encode_of_decode {w : CmdWord} {i : Instr} (h : decode w = .ok i) : encode i = w := by
  unfold decode at h
  split at h
  case h_1 hop | h_2 hop | h_21 hop =>
    obtain ⟨harg, hch, rfl⟩ := decodeGlobal_eq_ok.mp h
    exact encode_eq_of_fields hop harg hch
  case h_17 hop =>
    obtain ⟨harg, rfl⟩ := decodeResult_eq_ok.mp h
    exact encode_eq_of_fields hop (eq_bit_zero_of_upper_bits harg) rfl
  case h_23 => cases h
  all_goals
    obtain ⟨harg, rfl⟩ := decodeChannel_eq_ok.mp h
    exact encode_eq_of_fields ‹_› harg rfl

/-- A command's word has the command's opcode, and the arm of that opcode reads the command's operands back. -/
theorem decode_encode (i : Instr) : decode (encode i) = .ok i := by
  obtain ⟨hop, harg, hch⟩ := fields_encode i
  unfold decode
  rw [hop]
  cases i with
  | init | deinit | tick => exact decodeGlobal_eq_ok.mpr ⟨harg, hch, rfl⟩
  | txconf failed ch =>
    refine decodeResult_eq_ok.mpr ⟨harg ▸ argOf_upper_bits _, ?_⟩
    rw [harg, hch]
    exact congrArg (Instr.txconf · ch) (bit_zero_of_result failed)
  | _ => exact decodeChannel_eq_ok.mpr ⟨harg, congrArg _ hch⟩

/-- What the fields of a word that decodes say about its command. -/
theorem fields_of_decode {w : CmdWord} {i : Instr} (h : decode w = .ok i) :
    opField w = opcodeOf i ∧ argField w = argOf i ∧ chField w = chOf i :=
  encode_of_decode h ▸ fields_encode i

/-- Settles O1, by `decode_encode`. -/
theorem decodeOfEncodeIsTheCommand : Obligations.DecodeOfEncodeIsTheCommand := decode_encode

/-- Settles O3: each listed word is the word of its command. -/
theorem sampleWordsDecodeAsListed : Obligations.SampleWordsDecodeAsListed :=
  ⟨decode_encode .init, decode_encode (.netreq 1), decode_encode (.getst 0xFF), decode_encode (.txconf false 2),
    decode_encode (.txconf true 2), decode_encode (.rxind 0), decode_encode .tick, decode_encode (.pstart 3)⟩

/-! ### Words answered `E_ILLEGAL` -/

theorem step_of_command {s : State} {c : Command} {rest : List Input} (hp : s.port = .command c :: rest) :
    step s = runWord c.word (accept s c rest) := by
  simp [step, hp]

/-- A word that is no command is answered `E_ILLEGAL` and changes nothing else (R74, R75). -/
theorem runWord_of_error {w : CmdWord} {err : DecodeError} (h : decode w = .error err) (s : State) :
    runWord w s = .next (replied s .eIllegal 0 []) := by
  simp [runWord, h, answer_eq_replied]

theorem runWord_of_ok {w : CmdWord} {i : Instr} (h : decode w = .ok i) (s : State) : runWord w s = exec i s := by
  simp [runWord, h]

/-- A command on a channel the block does not have is answered `E_ILLEGAL`, whatever the command (R75). -/
theorem exec_of_missing_channel {i : Instr} {ch : ChIdx} {s : State} (hi : i.channel? = some ch)
    (hch : s.nCh ≤ ch.toNat) : exec i s = .next (replied s .eIllegal 0 []) := by
  rw [exec_of_channel hi, onAnyChannel_none (List.getElem?_eq_none hch), answer_eq_replied]

/-- Settles O5: the opcode of a command is not reserved, and a command has one word. -/
theorem reservedOpcodesAreAnsweredIllegal : Obligations.ReservedOpcodesAreAnsweredIllegal := by
  refine ⟨fun s c rest hp hop => ?_, fun w w' i hw hw' => (encode_of_decode hw).symm.trans (encode_of_decode hw')⟩
  rw [step_of_command hp]
  cases hd : decode c.word with
  | error err => exact runWord_of_error hd _
  | ok i =>
    obtain ⟨hopc, -, -⟩ := fields_of_decode hd
    have hrange := opcodeOf_range i
    rw [hopc] at hop
    omega

/-- Settles O6: a word that decodes breaks no reserved field, so the channel it names is missing. -/
theorem reservedFieldsAreAnsweredIllegal : Obligations.ReservedFieldsAreAnsweredIllegal := by
  intro s c rest hp hbad
  rw [step_of_command hp]
  cases hd : decode c.word with
  | error err => exact runWord_of_error hd _
  | ok i =>
    obtain ⟨hop, harg, hch⟩ := fields_of_decode hd
    rw [hop, harg, hch] at hbad
    rcases hbad with ⟨hne, ha⟩ | ⟨-, ha⟩ | ⟨hglobal, hc⟩ | ⟨hne1, hne2, hne3, hmissing⟩
    · exact absurd (argOf_eq_zero hne) ha
    · exact absurd (argOf_upper_bits i) ha
    · exact absurd (by rw [chOf, (channel?_eq_none_iff i).mpr hglobal]; rfl) hc
    · rw [runWord_of_ok hd]
      cases hi : i.channel? with
      | none => simp [hne1, hne2, hne3, channel?_eq_none_iff] at hi
      | some ch =>
        have hof : chOf i = ch := by simp [chOf, hi]
        exact exec_of_missing_channel hi (hof ▸ hmissing)

end Sys2Proof.Proofs.Encoding
end

section
/-! PROOFS, family 40_timer: R100 to R103, R105. A micro-operation writes one timer; a started timer that is only ticked
counts down to its expiry, where its handler runs once, and stays stopped. -/

namespace Sys2Proof.Proofs.Timer

open Sys2Proof Sys2Proof.Machine

/-! ### Writing one timer -/

/-- Settles O35: each operation is one `setTimer`, and a timer written is read back while the others are untouched. -/
theorem timerOperationsWriteOneTimer : Obligations.TimerOperationsWriteOneTimer := by
  intro c T U d
  refine ⟨?_, ?_, ?_, ?_, fun hU => ⟨?_, ?_, ?_, ?_⟩⟩
  · rw [getTimer_tStart, if_pos rfl]
  · rw [getTimer_tResume, if_pos rfl]
  · rw [getTimer_tStop, if_pos rfl]
  · rw [getTimer_tReset, if_pos rfl]
  · rw [getTimer_tStart, if_neg hU]
  · rw [getTimer_tResume, if_neg hU]
  · rw [getTimer_tStop, if_neg hU]
  · rw [getTimer_tReset, if_neg hU]

/-! ### The tick on which a countdown is due -/

/-- The number, counting from 1, of the tick with period `P` on which a countdown of `D` expires (R105). -/
def dueTick (D P : Nat) : Nat := max 1 ((D + P - 1) / P)

theorem dueTick_pos (D P : Nat) : 0 < dueTick D P := Nat.one_pos.trans_le (le_max_left ..)

/-- A countdown within one period is due on the next tick, a countdown of 0 too. -/
theorem dueTick_of_le {D P : Nat} (hP : 0 < P) (h : D ≤ P) : dueTick D P = 1 :=
  max_eq_left (Nat.lt_succ_iff.mp (Nat.div_lt_of_lt_mul (by omega)))

/-- A countdown longer than one period is due one tick after what a period leaves of it. -/
theorem dueTick_of_lt {D P : Nat} (hP : 0 < P) (h : P < D) : dueTick D P = dueTick (D - P) P + 1 := by
  have hpos : 1 ≤ (D - P + P - 1) / P := (Nat.one_le_div_iff hP).mpr (by omega)
  have hstep : (D + P - 1) / P = (D - P + P - 1) / P + 1 := by
    rw [← Nat.add_div_right _ hP]
    congr 1
    omega
  rw [dueTick, dueTick, max_eq_right hpos, hstep, max_eq_right (Nat.le_add_left ..)]

/-! ### Ticks in a row -/

/-- A stopped timer may be ticked any number of times: nothing happens, whatever its handler. -/
theorem repeatTick_of_stopped {expire : TimerSel → Work → Out Work} {T : TimerSel} {P : Dur} {w : Work}
    (hrun : (getTimer w.chan T).run = false) (n : Nat) : repeatTick expire T P n w = .next w := by
  induction n with
  | zero => rfl
  | succ n ih =>
    have htick : tTick expire T P w = .next w := by simp [tTick, hrun]
    rw [repeatTick, htick, andThen_next, ih]

/-- A running timer whose handler only emits `e`, ticked `n` times: the event is there once from the tick on which the
countdown is due, and the timer runs until then. -/
theorem repeatTick_of_running {T : TimerSel} {P : Dur} {e : Event} (hP : 0 < P.toNat) (n : Nat) :
    ∀ w : Work, (getTimer w.chan T).run = true →
      ∃ w', repeatTick (fun _ w => .next (emit e w)) T P n w = .next w'
        ∧ w'.events = w.events ++ (if dueTick (getTimer w.chan T).cnt.toNat P.toNat ≤ n then [e] else [])
        ∧ (getTimer w'.chan T).run = decide (n < dueTick (getTimer w.chan T).cnt.toNat P.toNat) := by
  induction n with
  | zero =>
    intro w hrun
    have hdue := dueTick_pos (getTimer w.chan T).cnt.toNat P.toNat
    exact ⟨w, rfl, by rw [if_neg (by omega), List.append_nil], by rw [hrun, decide_eq_true hdue]⟩
  | succ n ih =>
    intro w hrun
    rw [repeatTick]
    rcases tTick_cases (fun _ w => .next (emit e w)) T P w with ⟨hstop, -⟩ | ⟨-, hcnt, htick⟩ | ⟨-, hcnt, htick⟩
    · exact absurd (hrun.symm.trans hstop) (by decide)
    · rw [htick, andThen_next]
      obtain ⟨w', hnext, hevents, hrun'⟩ :=
        ih (withChan w (setTimer w.chan T ⟨true, (getTimer w.chan T).cnt - P⟩)) (by simp)
      have hlt : P < (getTimer w.chan T).cnt := BitVec.not_le.mp hcnt
      have hcnt' : ((getTimer w.chan T).cnt - P).toNat = (getTimer w.chan T).cnt.toNat - P.toNat :=
        BitVec.toNat_sub_of_le (BitVec.le_of_lt hlt)
      rw [dueTick_of_lt hP (BitVec.lt_def.mp hlt)]
      refine ⟨w', hnext, ?_, ?_⟩
      · simpa [hcnt'] using hevents
      · simpa [hcnt'] using hrun'
    · rw [htick, andThen_next, repeatTick_of_stopped (by simp), dueTick_of_le hP (BitVec.le_def.mp hcnt)]
      exact ⟨_, rfl, by simp, by simp⟩

/-- Settles O36: the timer just started runs with countdown `D`, and nothing has been emitted. -/
theorem startedTimerExpiresExactlyOnce : Obligations.StartedTimerExpiresExactlyOnce := by
  intro c T D P e back n hP due
  have hstart : getTimer (tStart c T D) T = ⟨true, D⟩ := by rw [getTimer_tStart, if_pos rfl]
  obtain ⟨w, hnext, hevents, hrun⟩ := repeatTick_of_running hP n ⟨tStart c T D, [], back⟩ (by rw [hstart])
  rw [hstart] at hevents hrun
  exact ⟨w, hnext, hevents, hrun⟩

end Sys2Proof.Proofs.Timer
end

section
/-! PROOFS, family 41_transitions: R121. Dropping the state-change notifications commutes with every operation, run under the
configuration with the notification flag cleared, so no operation reads either. -/

namespace Sys2Proof.Proofs.Transitions

open Sys2Proof Sys2Proof.Machine Sys2Proof.Proofs.State

/-! ### The flag cleared, the notifications dropped -/

/-- The events other than state-change notifications. -/
def otherEvents (evs : List Event) : List Event := evs.filter fun ev => !ev.isStateChange

/-- The global configuration with the notification flag cleared. -/
def muteGlob (g : GlobCfg) : GlobCfg := { g with stateChangeInd := false }

/-- The environment of a rule with the notification flag cleared. -/
def muteEnv (e : Env) : Env := { e with glob := muteGlob e.glob }

/-- A command in progress without the notifications emitted so far. -/
def muteWork (w : Work) : Work := { w with events := otherEvents w.events }

/-- The end of a command without the notifications. -/
def muteAnswer (a : Answer) : Answer := { a with work := muteWork a.work }

/-- The value a transmit request goes on with, without the notifications. -/
def muteSent (r : Work × Bool) : Work × Bool := (muteWork r.1, r.2)

@[simp] theorem muteWork_chan (w : Work) : (muteWork w).chan = w.chan := rfl
@[simp] theorem muteWork_withChan (w : Work) (c : Channel) : muteWork (withChan w c) = withChan (muteWork w) c := rfl

/-- Every event that is no notification is kept, in its place. -/
theorem muteWork_emit {ev : Event} (h : ev.isStateChange = false) (w : Work) :
    muteWork (emit ev w) = emit ev (muteWork w) := by
  simp [muteWork, emit, otherEvents, h]

/-- `Sc` is the one operation that reads the flag, and all it does is emit the notification (R121). -/
@[simp] theorem muteWork_sc (e : Env) (old new : NmState) (w : Work) :
    muteWork (sc e old new w) = sc (muteEnv e) old new (muteWork w) := by
  have hmuted : sc (muteEnv e) old new (muteWork w) = muteWork w := rfl
  rw [hmuted]
  unfold sc
  split
  · simp [muteWork, emit, otherEvents, Event.isStateChange]
  · rfl

/-! ### Transitions -/

@[simp] theorem muteWork_cancelRsi (e : Env) (w : Work) : muteWork (cancelRsi e w) = cancelRsi (muteEnv e) (muteWork w) :=
  (apply_ite muteWork _ _ _).trans (if_congr Iff.rfl (muteWork_emit rfl _) rfl)

@[simp] theorem muteWork_txTimeoutNote (e : Env) (w : Work) :
    muteWork (txTimeoutNote e w) = txTimeoutNote (muteEnv e) (muteWork w) :=
  (apply_ite muteWork _ _ _).trans (if_congr Iff.rfl (muteWork_emit rfl _) rfl)

@[simp] theorem muteWork_rearmTimeout (w : Work) : muteWork (rearmTimeout w) = rearmTimeout (muteWork w) := rfl

@[simp] theorem muteWork_trRmReenter (w : Work) : muteWork (trRmReenter w) = trRmReenter (muteWork w) := rfl

@[simp] theorem muteWork_wake (e : Env) (b : Bool) (w : Work) :
    muteWork (wake e b w) = wake (muteEnv e) b (muteWork w) :=
  (muteWork_sc ..).trans (congrArg _ (muteWork_emit rfl _))

@[simp] theorem muteWork_trBsBs (e : Env) (w : Work) : muteWork (trBsBs e w) = trBsBs (muteEnv e) (muteWork w) :=
  (muteWork_sc ..).trans (congrArg _ (muteWork_emit rfl w))

@[simp] theorem muteWork_trPbsBs (e : Env) (w : Work) : muteWork (trPbsBs e w) = trPbsBs (muteEnv e) (muteWork w) :=
  (muteWork_sc ..).trans (congrArg _ (muteWork_emit rfl _))

@[simp] theorem muteWork_trNoRs (e : Env) (w : Work) : muteWork (trNoRs e w) = trNoRs (muteEnv e) (muteWork w) :=
  muteWork_sc ..

@[simp] theorem muteWork_trRsNo (e : Env) (w : Work) : muteWork (trRsNo e w) = trRsNo (muteEnv e) (muteWork w) :=
  muteWork_sc ..

@[simp] theorem muteWork_trNoRm (e : Env) (b : Bool) (w : Work) :
    muteWork (trNoRm e b w) = trNoRm (muteEnv e) b (muteWork w) :=
  (muteWork_sc ..).trans (congrArg _ (muteWork_cancelRsi ..))

@[simp] theorem muteWork_trRsRm (e : Env) (b : Bool) (w : Work) :
    muteWork (trRsRm e b w) = trRsRm (muteEnv e) b (muteWork w) :=
  (muteWork_sc ..).trans (congrArg _ (muteWork_cancelRsi ..))

theorem muteWork_trRmRs (e : Env) (w : Work) : mapOut muteWork (trRmRs e w) = trRmRs (muteEnv e) (muteWork w) :=
  mapOut_andThen_same fun _ => congrArg _ (muteWork_sc ..)

theorem muteWork_trRmNo (e : Env) (w : Work) : mapOut muteWork (trRmNo e w) = trRmNo (muteEnv e) (muteWork w) :=
  mapOut_andThen_same fun _ => congrArg _ (muteWork_sc ..)

theorem muteWork_trRsPbs (e : Env) (w : Work) : mapOut muteWork (trRsPbs e w) = trRsPbs (muteEnv e) (muteWork w) :=
  mapOut_andThen_same fun _ => congrArg _ ((muteWork_sc ..).trans (congrArg _ (muteWork_emit rfl _)))

/-! ### Expiry handlers and ticks -/

theorem muteSent_busTx (e : Env) (w : Work) : mapOut muteSent (busTx e w) = busTx (muteEnv e) (muteWork w) := by
  obtain ⟨c, evs, back⟩ := w
  refine mapOut_andThen_same fun f => ?_
  cases back with
  | nil => rfl
  | cons ok rest =>
    exact congrArg (fun v : Work => Host.Outcome.next ({ v with back := rest }, ok))
      (muteWork_emit (ev := .txReq e.idx f) rfl _)

theorem muteWork_expireTimeout (e : Env) (w : Work) :
    mapOut muteWork (expireTimeout e w) = expireTimeout (muteEnv e) (muteWork w) := by
  unfold expireTimeout
  rw [muteWork_chan]
  split
  · exact congrArg _ (muteWork_txTimeoutNote ..)
  · exact congrArg _ (muteWork_txTimeoutNote ..)
  · exact muteWork_trRsPbs ..
  all_goals rfl

theorem muteWork_expireMsgCycle (e : Env) (w : Work) :
    mapOut muteWork (expireMsgCycle e w) = expireMsgCycle (muteEnv e) (muteWork w) :=
  mapOut_ite (mapOut_andThen (muteSent_busTx e w) fun _ => rfl) rfl

theorem muteWork_expireRepeatMsg (e : Env) (w : Work) :
    mapOut muteWork (expireRepeatMsg e w) = expireRepeatMsg (muteEnv e) (muteWork w) :=
  mapOut_ite (mapOut_ite (muteWork_trRmNo e w) (muteWork_trRmRs e w)) rfl

theorem muteWork_expireWaitBusSleep (e : Env) (w : Work) :
    mapOut muteWork (expireWaitBusSleep e w) = expireWaitBusSleep (muteEnv e) (muteWork w) :=
  mapOut_ite (congrArg _ (muteWork_trPbsBs e w)) rfl

theorem muteWork_expireRemoteSleep (e : Env) (w : Work) :
    mapOut muteWork (expireRemoteSleep e w) = expireRemoteSleep (muteEnv e) (muteWork w) :=
  mapOut_ite (congrArg _ (muteWork_emit rfl _)) rfl

theorem muteWork_expire (e : Env) (T : TimerSel) (w : Work) :
    mapOut muteWork (expire e T w) = expire (muteEnv e) T (muteWork w) :=
  match T with
  | .timeout => muteWork_expireTimeout e w
  | .msgCycle => muteWork_expireMsgCycle e w
  | .repeatMsg => muteWork_expireRepeatMsg e w
  | .waitBusSleep => muteWork_expireWaitBusSleep e w
  | .remoteSleep => muteWork_expireRemoteSleep e w

theorem muteWork_tTick (e : Env) (T : TimerSel) (d : Dur) (w : Work) :
    mapOut muteWork (tTick (expire e) T d w) = tTick (expire (muteEnv e)) T d (muteWork w) :=
  mapOut_ite (mapOut_ite (muteWork_expire ..) rfl) rfl

theorem muteWork_tickTimers (e : Env) (Ts : List TimerSel) (w : Work) :
    mapOut muteWork (tickTimers e Ts w) = tickTimers (muteEnv e) Ts (muteWork w) := by
  induction Ts generalizing w with
  | nil => rfl
  | cons T Ts ih => exact mapOut_andThen (muteWork_tTick ..) ih

theorem otherEvents_tickChannels (p : Params) (g : GlobCfg) (cs : List Channel) (k : Nat) (evs : List Event)
    (back : List Bool) :
    mapOut (Prod.map id otherEvents) (tickChannels p g k cs evs back)
      = tickChannels p (muteGlob g) k cs (otherEvents evs) back := by
  induction cs generalizing k evs back with
  | nil => rfl
  | cons c cs ih => exact mapOut_andThen (muteWork_tickTimers ..) fun w => mapOut_andThen (ih ..) fun r => rfl

/-! ### Commands -/

theorem muteWork_netreqAwake (e : Env) (w : Work) :
    muteWork (netreqAwake e w) = netreqAwake (muteEnv e) (muteWork w) := by
  unfold netreqAwake
  rw [muteWork_chan]
  split
  · split <;> simp
  · split <;> simp

theorem muteWork_netreqAsleep (e : Env) (w : Work) :
    mapOut muteWork (netreqAsleep e w) = netreqAsleep (muteEnv e) (muteWork w) := by
  refine mapOut_andThen_same fun c => congrArg Host.Outcome.next ?_
  exact (apply_ite muteWork _ _ _).trans (if_congr Iff.rfl (muteWork_wake ..) (muteWork_wake ..))

theorem muteAnswer_netreqRule (e : Env) (w : Work) :
    mapOut muteAnswer (netreqRule e w) = netreqRule (muteEnv e) (muteWork w) := by
  unfold netreqRule
  dsimp only [withChan_chan, muteWork_chan]
  split
  · exact mapOut_andThen (muteWork_netreqAsleep ..) fun _ => rfl
  · exact mapOut_andThen (muteWork_netreqAsleep ..) fun _ => rfl
  · exact congrArg done (muteWork_netreqAwake ..)

theorem muteAnswer_netrelRule (e : Env) (w : Work) :
    mapOut muteAnswer (netrelRule e w) = netrelRule (muteEnv e) (muteWork w) :=
  congrArg done ((apply_ite muteWork _ _ _).trans (if_congr Iff.rfl (muteWork_trNoRs ..) rfl))

theorem muteAnswer_pstartRule (e : Env) (w : Work) :
    mapOut muteAnswer (pstartRule e w) = pstartRule (muteEnv e) (muteWork w) :=
  mapOut_ite rfl (congrArg done (muteWork_wake ..))

theorem muteAnswer_rmreqRule (e : Env) (w : Work) :
    mapOut muteAnswer (rmreqRule e w) = rmreqRule (muteEnv e) (muteWork w) := by
  refine mapOut_ite rfl (mapOut_andThen_same fun c => congrArg done ?_)
  exact (apply_ite muteWork _ _ _).trans (if_congr Iff.rfl (muteWork_trRsRm ..) (muteWork_trNoRm ..))

theorem muteAnswer_bussyncRule (e : Env) (w : Work) :
    mapOut muteAnswer (bussyncRule e w) = bussyncRule (muteEnv e) (muteWork w) :=
  mapOut_ite rfl (mapOut_andThen (muteSent_busTx e w) fun _ => mapOut_ite rfl rfl)

theorem muteAnswer_setudRule (din : List Byte) (e : Env) (w : Work) :
    mapOut muteAnswer (setudRule din e w) = setudRule din (muteEnv e) (muteWork w) :=
  mapOut_ite (mapOut_ite rfl (mapOut_andThen_same fun _ => rfl)) rfl

/-- The forwarding events of TXCONF and RXIND are no notifications (R186, R187). -/
theorem muteWork_forward {ev : Event} (h : ev.isStateChange = false) (e : Env) (w : Work) :
    muteWork (if forwards e.glob then emit ev w else w)
      = if forwards (muteEnv e).glob then emit ev (muteWork w) else muteWork w :=
  (apply_ite muteWork _ _ _).trans (if_congr Iff.rfl (muteWork_emit h w) rfl)

theorem muteAnswer_txconfRule (failed : Bool) (e : Env) (w : Work) :
    mapOut muteAnswer (txconfRule failed e w) = txconfRule failed (muteEnv e) (muteWork w) := by
  have hw : muteWork (if failed = false ∧ w.chan.mode = .network then rearmTimeout w else w)
      = if failed = false ∧ (muteWork w).chan.mode = .network then rearmTimeout (muteWork w) else muteWork w :=
    apply_ite muteWork _ _ _
  unfold txconfRule
  dsimp only
  rw [← hw]
  exact congrArg done (muteWork_forward rfl e _)

theorem muteWork_rxSelf (w : Work) : muteWork (rxSelf w) = rxSelf (muteWork w) := by
  rw [rxSelf_eq_rearmTimeout, rxSelf_eq_rearmTimeout, muteWork_rearmTimeout]

theorem muteWork_rxRemoteSleep (e : Env) (w : Work) :
    muteWork (rxRemoteSleep e w) = rxRemoteSleep (muteEnv e) (muteWork w) := by
  unfold rxRemoteSleep
  dsimp only
  rw [← muteWork_cancelRsi]
  exact (apply_ite muteWork _ _ _).trans (if_congr Iff.rfl (apply_ite muteWork _ _ _) rfl)

theorem muteWork_rxReduced (w : Work) : muteWork (rxReduced w) = rxReduced (muteWork w) := apply_ite muteWork _ _ _

theorem muteWork_rxRepeatBit (e : Env) (rmr : Bool) (w : Work) :
    muteWork (rxRepeatBit e rmr w) = rxRepeatBit (muteEnv e) rmr (muteWork w) := by
  unfold rxRepeatBit
  rw [muteWork_chan]
  split
  · split <;> simp
  · rfl

theorem muteWork_rxReact (e : Env) (rmr : Bool) (w : Work) :
    muteWork (rxReact e rmr w) = rxReact (muteEnv e) rmr (muteWork w) := by
  unfold rxReact
  rw [muteWork_chan]
  split
  · exact muteWork_trBsBs ..
  · exact muteWork_wake ..
  · rw [muteWork_rxRepeatBit, muteWork_rxReduced, muteWork_rxRemoteSleep, muteWork_rxSelf]

theorem muteAnswer_rxindRule (f : List Byte) (e : Env) (w : Work) :
    mapOut muteAnswer (rxindRule f e w) = rxindRule f (muteEnv e) (muteWork w) := by
  refine mapOut_ite (mapOut_andThen_same fun c => congrArg done ((muteWork_rxReact ..).trans ?_)) rfl
  exact congrArg (rxReact (muteEnv e) _) (muteWork_forward rfl e _)

/-- A rule behind the check for Uninit commutes with the muting when the rule does. -/
theorem muteAnswer_gated {rule : Env → Work → Out Answer} {e : Env} {w : Work}
    (h : mapOut muteAnswer (rule e w) = rule (muteEnv e) (muteWork w)) :
    mapOut muteAnswer (gated rule e w) = gated rule (muteEnv e) (muteWork w) := mapOut_ite rfl h

/-- Every command on a channel commutes with the muting. -/
theorem muteAnswer_commandRule (o : Operands) (i : Instr) (e : Env) (w : Work) :
    mapOut muteAnswer (commandRule o i e w) = commandRule o i (muteEnv e) (muteWork w) := by
  cases i with
  | init => rfl
  | deinit => rfl
  | tick => rfl
  | getst ch => rfl
  | netreq ch => exact muteAnswer_gated (muteAnswer_netreqRule e w)
  | netrel ch => exact muteAnswer_gated (muteAnswer_netrelRule e w)
  | pstart ch => exact muteAnswer_gated (muteAnswer_pstartRule e w)
  | encom ch => exact muteAnswer_gated (mapOut_ite rfl rfl)
  | discom ch => exact muteAnswer_gated (mapOut_ite rfl rfl)
  | rmreq ch => exact muteAnswer_gated (muteAnswer_rmreqRule e w)
  | bussync ch => exact muteAnswer_gated (muteAnswer_bussyncRule e w)
  | chkrsi ch => exact muteAnswer_gated (mapOut_ite rfl rfl)
  | setsrb ch => exact muteAnswer_gated (mapOut_ite rfl (mapOut_andThen_same fun _ => rfl))
  | pnconf ch => exact muteAnswer_gated (mapOut_ite rfl rfl)
  | setud ch => exact muteAnswer_gated (muteAnswer_setudRule _ e w)
  | getud ch => exact muteAnswer_gated (mapOut_ite rfl (mapOut_andThen_same fun _ => rfl))
  | getnid ch => exact muteAnswer_gated (mapOut_ite rfl (mapOut_andThen_same fun _ => rfl))
  | getlnid ch => exact muteAnswer_gated (mapOut_ite rfl rfl)
  | getpdu ch => exact muteAnswer_gated (mapOut_ite rfl (mapOut_andThen_same fun _ => rfl))
  | trigtx ch => exact muteAnswer_gated (mapOut_ite rfl (mapOut_andThen_same fun _ => rfl))
  | txconf failed ch => exact muteAnswer_gated (muteAnswer_txconfRule failed e w)
  | rxind ch => exact muteAnswer_gated (muteAnswer_rxindRule _ e w)

/-! ### Steps -/

theorem forgetNotification_idem (s : State) : forgetNotification (forgetNotification s) = forgetNotification s := by
  simp [forgetNotification, Function.comp_def]

/-- A command on a channel commutes with forgetting when its rule commutes with the muting. -/
theorem forgetNotification_onAnyChannel (ch : ChIdx) (s : State) {rule : Env → Work → Out Answer}
    (hrule : ∀ e w, mapOut muteAnswer (rule e w) = rule (muteEnv e) (muteWork w)) :
    mapOut forgetNotification (onAnyChannel ch s rule) = onAnyChannel ch (forgetNotification s) rule := by
  cases hc : s.chans[ch.toNat]? with
  | none => rw [onAnyChannel_none hc, onAnyChannel_none (s := forgetNotification s) hc]; rfl
  | some c =>
    rw [onAnyChannel_some hc, onAnyChannel_some (s := forgetNotification s) hc]
    exact mapOut_andThen (hrule ..) fun _ => rfl

/-- INIT overwrites the flag and the response without looking at them. -/
theorem execInit_forgetNotification (s : State) : execInit (forgetNotification s) = execInit s := rfl

theorem forgetNotification_execDeinit (s : State) :
    mapOut forgetNotification (execDeinit s) = execDeinit (forgetNotification s) := mapOut_ite rfl rfl

theorem forgetNotification_execTick (s : State) :
    mapOut forgetNotification (execTick s) = execTick (forgetNotification s) :=
  mapOut_ite (mapOut_andThen (otherEvents_tickChannels ..) fun _ => rfl) rfl

/-- Every command but INIT, which writes the flag, commutes with forgetting. -/
theorem forgetNotification_exec {i : Instr} (hi : i ≠ .init) (s : State) :
    mapOut forgetNotification (exec i s) = exec i (forgetNotification s) := by
  cases hch : i.channel? with
  | some ch =>
    rw [exec_of_channel hch, exec_of_channel hch]
    exact forgetNotification_onAnyChannel ch s (muteAnswer_commandRule s.operands i)
  | none =>
    rcases channel?_eq_none hch with rfl | rfl | rfl
    · exact absurd rfl hi
    · exact forgetNotification_execDeinit s
    · exact forgetNotification_execTick s

/-- Every command goes on alike, up to the notifications, from a state with and without them. -/
theorem mapOut_forgetNotification_exec (i : Instr) (s : State) :
    mapOut forgetNotification (exec i s) = mapOut forgetNotification (exec i (forgetNotification s)) := by
  by_cases hi : i = .init
  · subst hi
    exact congrArg (mapOut forgetNotification) (execInit_forgetNotification s).symm
  · rw [forgetNotification_exec hi, forgetNotification_exec hi, forgetNotification_idem]

/-- Every step goes on alike, up to the notifications, from a state with and without them. -/
theorem mapOut_forgetNotification_step (s : State) :
    mapOut forgetNotification (step s) = mapOut forgetNotification (step (forgetNotification s)) := by
  have hport : (forgetNotification s).port = s.port := rfl
  unfold step
  rw [hport]
  split
  · exact congrArg Host.Outcome.next (forgetNotification_idem s).symm
  · rfl
  · rename_i c rest _
    unfold runWord
    split
    · exact mapOut_forgetNotification_exec _ (accept s c rest)
    · rfl

/-- Settles O56: from either state the step agrees with the step from the common state without notifications. -/
theorem notificationIsAPureSideChannel : Obligations.NotificationIsAPureSideChannel := by
  intro s s' h
  rw [agreeUpTo_iff_mapOut_eq, mapOut_forgetNotification_step s, mapOut_forgetNotification_step s', h]

end Sys2Proof.Proofs.Transitions
end

section
/-! PROOFS, family 41_transitions: R138, R139. What each expiry handler does to a channel's state, and what the handlers of
one TICK, run in the order of R7, do to it together. -/

namespace Sys2Proof.Proofs.Transitions

open Sys2Proof Sys2Proof.Machine Sys2Proof.Proofs.State

/-- The moves of a channel's state that R138 gives the expiry of each timer. -/
def ExpiryMoves : TimerSel → NmState → NmState → Prop
  | .timeout, old, new => old = .readySleep ∧ new = .prepareBusSleep
  | .repeatMsg, old, new => old = .repeatMessage ∧ (new = .normalOperation ∨ new = .readySleep)
  | .waitBusSleep, old, new => old = .prepareBusSleep ∧ new = .busSleep
  | .msgCycle, _, _ => False
  | .remoteSleep, _, _ => False

/-- Every handler leaves the state or moves it as R138 lists for its timer. -/
theorem expire_moves {e : Env} {T : TimerSel} {w w' : Work} (h : expire e T w = .next w') :
    w'.chan.state = w.chan.state ∨ ExpiryMoves T w.chan.state w'.chan.state := by
  cases T with
  | timeout =>
    rcases expireTimeout_eq_next h with ⟨-, rfl⟩ | ⟨hs, h⟩ | ⟨-, -, -, rfl⟩
    · exact .inl (by rw [txTimeoutNote_chan]; rfl)
    · obtain ⟨tx', -, rfl⟩ := trRsPbs_eq_next h
      exact .inr ⟨hs, rfl⟩
    · exact .inl rfl
  | msgCycle =>
    rcases expireMsgCycle_eq_next h with ⟨-, f, ok, rest, -, -, rfl⟩ | ⟨-, rfl⟩
    · obtain ⟨mc, ic, hform⟩ := afterCycleTx_form ok w.chan
      exact .inl (by rw [hform])
    · exact .inl rfl
  | repeatMsg =>
    rcases expireRepeatMsg_eq_next h with ⟨hs, -, h⟩ | ⟨hs, -, h⟩ | ⟨-, rfl⟩
    · obtain ⟨tx', -, rfl⟩ := trRmNo_eq_next h
      exact .inr ⟨hs, .inl rfl⟩
    · obtain ⟨tx', -, rfl⟩ := trRmRs_eq_next h
      exact .inr ⟨hs, .inr rfl⟩
    · exact .inl rfl
  | waitBusSleep =>
    rcases expireWaitBusSleep_eq_next h with ⟨hs, rfl⟩ | ⟨-, rfl⟩
    · exact .inr ⟨hs, by simp [trPbsBs]⟩
    · exact .inl rfl
  | remoteSleep =>
    rcases expireRemoteSleep_eq_next h with ⟨-, rfl⟩ | ⟨-, rfl⟩ <;> exact .inl rfl

/-- A tick of one timer leaves the state or moves it as the timer's handler may. -/
theorem tTick_moves {e : Env} {T : TimerSel} {d : Dur} {w w' : Work} (h : tTick (expire e) T d w = .next w') :
    w'.chan.state = w.chan.state ∨ ExpiryMoves T w.chan.state w'.chan.state := by
  rcases tTick_cases (expire e) T d w with ⟨-, h'⟩ | ⟨-, -, h'⟩ | ⟨-, -, h'⟩ <;> rw [h'] at h
  · cases h; exact .inl rfl
  · cases h; exact .inl rfl
  · exact expire_moves (w := withChan w (expiryEntry w.chan T)) h

/-- The five ticks of a channel, visited in the order of R7, together move its state only as `MoveAllowed` lists: the
timeout timer is visited before the other two that move the state, so Ready-Sleep can reach Bus-Sleep through
Prepare-Bus-Sleep within one TICK, and Repeat-Message cannot pass beyond Ready-Sleep. -/
theorem tickTimers_moves {e : Env} {w w' : Work} (h : tickTimers e Config.tickOrder w = .next w')
    (hne : w'.chan.state ≠ w.chan.state) : MoveAllowed .tick w.chan.state w'.chan.state := by
  obtain ⟨w1, h1, h⟩ := andThen_eq_next.mp h
  obtain ⟨w2, h2, h⟩ := andThen_eq_next.mp h
  obtain ⟨w3, h3, h⟩ := andThen_eq_next.mp h
  obtain ⟨w4, h4, h⟩ := andThen_eq_next.mp h
  obtain ⟨w5, h5, h⟩ := andThen_eq_next.mp h
  cases h
  have hmsgCycle : w2.chan.state = w1.chan.state := (tTick_moves h2).resolve_right nofun
  have hremote : w'.chan.state = w4.chan.state := (tTick_moves h5).resolve_right nofun
  rw [hremote] at hne ⊢
  rcases tTick_moves h1 with htimeout | ⟨hold, hnew⟩
  · rw [← htimeout, ← hmsgCycle] at hne ⊢
    rcases tTick_moves h3 with hrepeat | ⟨hold, hnew⟩
    · rw [← hrepeat] at hne ⊢
      exact .inr (.inr ((tTick_moves h4).resolve_left hne))
    · have hstay : w4.chan.state = w3.chan.state :=
        (tTick_moves h4).resolve_right fun ⟨hpbs, _⟩ => by rcases hnew with hnew | hnew <;> cases hnew.symm.trans hpbs
      exact .inl ⟨hold, hstay ▸ hnew⟩
  · have hrepeat : w3.chan.state = w2.chan.state :=
      (tTick_moves h3).resolve_right fun ⟨hrm, _⟩ => by cases hnew.symm.trans (hmsgCycle.symm.trans hrm)
    have hpbs : w3.chan.state = .prepareBusSleep := hrepeat.trans (hmsgCycle.trans hnew)
    rcases tTick_moves h4 with hstay | ⟨-, hbs⟩
    · exact .inr (.inl ⟨hold, .inl (hstay.trans hpbs)⟩)
    · exact .inr (.inl ⟨hold, .inr hbs⟩)

/-- Settles O59: by what `RecordStep` lists for the command, a changed state is one of its channel, or the command is INIT,
DEINIT or TICK. -/
theorem statesMoveOnlyAsListed : Obligations.StatesMoveOnlyAsListed := by
  intro i s t k c c' ⟨hlegal, _⟩ horder h hc hc' hne
  cases exec_recordStep h hc hc' with
  | kept => exact absurd rfl hne
  | rule addressed index frame =>
    refine ⟨frame.moves (hlegal c (List.mem_of_getElem? hc)) hne, fun ch hch => ?_⟩
    cases addressed.symm.trans hch
    exact index
  | init command legal => exact command ▸ ⟨rfl, nofun⟩
  | deinit command asleep => exact command ▸ ⟨⟨asleep, rfl⟩, nofun⟩
  | tick command initialised ticked =>
    rw [horder] at ticked
    exact command ▸ ⟨tickTimers_moves ticked hne, nofun⟩

end Sys2Proof.Proofs.Transitions
end

section
/-! PROOFS, family 42_cbv: R140 to R143. The framer writes the control-bit-vector byte of an outgoing frame and no other
byte; of a received frame it reads one bit of that byte. -/

namespace Sys2Proof.Proofs.Cbv

open Sys2Proof Sys2Proof.Machine

/-! ### The outgoing byte -/

/-- R140: the bit is joined to the byte that was read, and no other byte changes. -/
theorem cbvSet_of_readable {p : Params} {b : Fin 8} {c : Channel} {v : Byte} (h : CbvReadable p c v) :
    ∃ tx', cbvSet p b c = .next { c with tx := tx' } ∧ CbvWritten p c (v ||| ((1 : Byte) <<< b.val)) tx' :=
  cbvModify_of_readable h

/-- R141: the bit is masked out of the byte that was read, and no other byte changes. -/
theorem cbvClr_of_readable {p : Params} {b : Fin 8} {c : Channel} {v : Byte} (h : CbvReadable p c v) :
    ∃ tx', cbvClr p b c = .next { c with tx := tx' } ∧ CbvWritten p c (v &&& ~~~((1 : Byte) <<< b.val)) tx' :=
  cbvModify_of_readable h

/-- Settles O37: setting and clearing a bit are two changes of the byte that was read; clearing the whole byte reads nothing
and needs only that the position lies in the frame. -/
theorem framerChangesOneByte : Obligations.FramerChangesOneByte := by
  intro p c b v hreadable
  have hinRange : present p c.cfg.cbvPos = true → c.cfg.cbvPos.toNat < c.cfg.txLen.toNat :=
    fun hpresent => (hreadable hpresent).left
  exact ⟨cbvSet_of_readable hreadable, cbvClr_of_readable hreadable, cbvClrAll_of_inRange hinRange⟩

/-! ### The received bit -/

/-- Testing a bit is the shift and mask that R143 writes. -/
theorem testBit_eq_shift_and_one (v : Byte) (b : Fin 8) : testBit v b = decide ((v >>> b.val) &&& 1 = 1) := by
  have hbit : testBit v b = (v >>> b.val).getLsbD 0 := by simp [testBit]
  have hmask : (v >>> b.val) &&& 1 = (BitVec.ofBool (testBit v b)).setWidth 8 := by
    rw [hbit]; exact BitVec.and_one_eq_setWidth_ofBool_getLsbD
  rw [hmask]
  cases testBit v b <;> decide

/-- R143, first line: no bit is received where the field is absent or lies past the frame. -/
theorem cbvRxBit_of_absent_or_past {p : Params} {c : ChanCfg} {f : List Byte} {b : Fin 8}
    (h : c.cbvPos = p.absent ∨ c.rxLen.toNat ≤ c.cbvPos.toNat) : cbvRxBit p c f b = false :=
  if_pos h

/-- R143, second line: inside the frame the bit is that of the byte at the configured position. -/
theorem cbvRxBit_of_getElem? {p : Params} {c : ChanCfg} {f : List Byte} {b : Fin 8} {v : Byte}
    (hne : c.cbvPos ≠ p.absent) (hlt : c.cbvPos.toNat < c.rxLen.toNat) (hv : f[c.cbvPos.toNat]? = some v) :
    cbvRxBit p c f b = testBit v b := by
  have hread : ¬ (c.cbvPos = p.absent ∨ c.rxLen.toNat ≤ c.cbvPos.toNat) := not_or.mpr ⟨hne, hlt.not_ge⟩
  rw [cbvRxBit, if_neg hread, List.getD_eq_getElem?_getD, hv, Option.getD_some]

/-- Settles O34: by the two lines of R143. -/
theorem receivedControlBitIsTheConfiguredOne : Obligations.ReceivedControlBitIsTheConfiguredOne := by
  intro p c f b
  refine ⟨cbvRxBit_of_absent_or_past, fun v hne hlt hv => ?_⟩
  rw [cbvRxBit_of_getElem? hne hlt hv, testBit_eq_shift_and_one]

end Sys2Proof.Proofs.Cbv
end

section
/-! PROOFS, family 43_commands_control: R150 and R151. INIT writes every register of every channel from the record and the
buffers, so a second INIT finds what it would write; DEINIT asks all channels before it writes any. -/

namespace Sys2Proof.Proofs.Control

open Sys2Proof Sys2Proof.Machine Sys2Proof.Proofs.State

/-! ### INIT -/

/-- R150: a legal record of the block's number of channels is latched and written through to every channel. -/
theorem execInit_of_legal {s : State} (hlen : s.operands.cfg.chans.length = s.nCh)
    (hlegal : legalCfg s.params s.operands.cfg = true) :
    execInit s = .next { s with
      glob := s.operands.cfg.glob
      chans := List.zipWith (initChannel s.params s.operands.cfg.glob) s.operands.cfg.chans s.chans
      rsp := some ⟨.ok, 0, [], []⟩ } := by
  unfold execInit
  dsimp only
  rw [if_neg (not_not.mpr hlen), if_pos hlegal]
  rfl

/-- Settles O12: the record of each channel is the one INIT writes, and TX is as `readCell_initTx` lists. -/
theorem initLeavesEveryChannelAsListed : Obligations.InitLeavesEveryChannelAsListed := by
  intro s hlen hlegal
  have hexec := execInit_of_legal hlen hlegal
  refine ⟨_, hexec, exec_chans_length (i := .init) hexec, fun k c f hc hf => ⟨initTx s.params f c.tx, ?_, ?_⟩⟩
  · rw [List.getElem?_zipWith, hf, hc]
    rfl
  · exact readCell_initTx s.params f c.tx

/-- The bytes INIT writes to TX do not depend on those it finds there. -/
theorem initTx_idem (p : Params) (f : ChanCfg) {m : Memory} (h : Memory.wf m) :
    initTx p f (initTx p f m) = initTx p f m :=
  memory_ext (initTx_wf (initTx_wf h)) (initTx_wf h) fun a => by
    simp only [readCell_initTx]
    split_ifs <;> rfl

/-- R150(a) for one channel. -/
theorem initChannel_idem (p : Params) (g : GlobCfg) (f : ChanCfg) {c : Channel} (h : Memory.wf c.tx) :
    initChannel p g f (initChannel p g f c) = initChannel p g f c :=
  calc initChannel p g f (initChannel p g f c)
    _ = { initChannel p g f c with tx := initTx p f (initTx p f c.tx) } := rfl
    _ = initChannel p g f c := by rw [initTx_idem p f h]; rfl

/-- R150(a) for the channels of the block, each with its own record. -/
theorem zipWith_initChannel_idem (p : Params) (g : GlobCfg) (fs : List ChanCfg) {cs : List Channel}
    (h : ∀ c ∈ cs, Memory.wf c.tx) :
    List.zipWith (initChannel p g) fs (List.zipWith (initChannel p g) fs cs)
      = List.zipWith (initChannel p g) fs cs := by
  induction fs generalizing cs with
  | nil => rfl
  | cons f fs ih =>
    cases cs with
    | nil => rfl
    | cons c cs =>
      obtain ⟨hc, hcs⟩ := List.forall_mem_cons.mp h
      simp only [List.zipWith_cons_cons, initChannel_idem p g f hc, ih hcs]

/-- Settles O13: the second INIT finds the same record on the port, as many channels and the same parameters, and writes to
each channel what it already holds. -/
theorem initIsIdempotent : Obligations.InitIsIdempotent := by
  intro s t hmem h
  have hcount : t.nCh = s.nCh := exec_chans_length h
  obtain ⟨hlen, hlegal, rfl⟩ := execInit_eq_next h
  have hsame := zipWith_initChannel_idem s.params s.operands.cfg.glob s.operands.cfg.chans fun c hc => (hmem c hc).left
  rw [exec, execInit_of_legal, hsame]
  · exact hlen.trans hcount.symm
  · exact hlegal

/-! ### DEINIT -/

/-- Settles O15: by what DEINIT asks of the channels. -/
theorem deinitIsAllOrNothing : Obligations.DeinitIsAllOrNothing := by
  intro s
  constructor
  · intro hasleep
    have hall : s.chans.all (fun c => decide (c.state = .busSleep)) = true := by simpa using hasleep
    exact if_pos hall
  · intro hawake
    have hall : ¬ s.chans.all (fun c => decide (c.state = .busSleep)) = true := by simpa using hawake
    exact if_neg hall

end Sys2Proof.Proofs.Control
end

section
/-! PROOFS, family 43_commands_control: R152 to R154 and R157. A request, a release, a passive start and a repeat-message
request each run one transition; what a transition leaves in the record and which events it emits is said once, then each
command is that transition. -/

namespace Sys2Proof.Proofs.Control

open Sys2Proof Sys2Proof.Machine Sys2Proof.Proofs.Cbv

/-! ### The end of a command on an initialised channel -/

/-- A rule that ends OK writes its record and sends its events, and nothing else of the state changes. -/
theorem onChannel_done {s : State} {ch : ChIdx} {c c' : Channel} {rule : Env → Work → Out Answer} {w : Work}
    {evs : List Event} (h : Addressed s ch c) (hrule : rule (envOf s ch) (startWork s c) = done w)
    (hchan : w.chan = c') (hevents : w.events = evs) :
    onChannel ch s rule = .next (responded s ch c' .ok evs) := by
  subst hchan hevents
  rw [onChannel_addressed h, hrule]
  rfl

/-- A rule that ends with the record and the events it began with leaves the response alone. -/
theorem onChannel_replies {s : State} {ch : ChIdx} {c : Channel} {rule : Env → Work → Out Answer} {k : ResultCode}
    {v : Byte} {d : List Byte} (h : Addressed s ch c)
    (hrule : rule (envOf s ch) (startWork s c) = .next ⟨startWork s c, k, v, d⟩) :
    onChannel ch s rule = .next (replied s k v d) := by
  rw [onChannel_addressed h, hrule, andThen_next, commit_startWork h.left]

/-! ### What each transition leaves -/

/-- R123, R134. -/
theorem wake_chan (e : Env) (byRequest : Bool) (w : Work) :
    (wake e byRequest w).chan = wakeChannel e.glob byRequest w.chan := by
  simp [wake]

theorem wake_events (e : Env) (byRequest : Bool) (w : Work) :
    (wake e byRequest w).events
      = w.events ++ .networkMode e.idx :: scEvents e.glob e.idx w.chan.state .repeatMessage := by
  simp [wake]

/-- R127: `tx_enabled` is left as it is. -/
theorem trNoRm_chan (e : Env) (byRequest : Bool) (w : Work) :
    (trNoRm e byRequest w).chan =
      { w.chan with
        state := .repeatMessage
        blrActive := false
        immTxCnt := if byRequest && w.chan.cfg.immTxEn then w.chan.cfg.immTxCount else w.chan.immTxCnt
        rsiIndicated := false
        tm := (rearmRepeat w.chan).tm } := by
  simp only [trNoRm, sc_chan, cancelRsi_chan, withChan_chan, loadBurst_eq, rearmRepeat_eq]

theorem trNoRm_events (e : Env) (byRequest : Bool) (w : Work) :
    (trNoRm e byRequest w).events
      = w.events ++ cancelEvents w.chan e.idx ++ scEvents e.glob e.idx .normalOperation .repeatMessage := by
  simp only [trNoRm, sc_events, cancelRsi_events, withChan_chan, withChan_events, loadBurst_eq, rearmRepeat_eq]
  rfl

/-- R129. -/
theorem trNoRs_chan (e : Env) (w : Work) :
    (trNoRs e w).chan = { w.chan with state := .readySleep, txEnabled := false } := by
  simp only [trNoRs, sc_chan, withChan_chan]

theorem trNoRs_events (e : Env) (w : Work) :
    (trNoRs e w).events = w.events ++ scEvents e.glob e.idx .normalOperation .readySleep := by
  simp only [trNoRs, sc_events, withChan_events]

/-- R130. -/
theorem trRsNo_chan (e : Env) (w : Work) :
    (trRsNo e w).chan =
      { w.chan with
        state := .normalOperation
        txEnabled := if e.glob.passive then w.chan.txEnabled else true
        blrActive := w.chan.cfg.blrEn
        tm := { w.chan.tm with msgCycle := ⟨true, w.chan.cfg.tMsgOffset⟩ } } := by
  simp only [trRsNo, sc_chan, withChan_chan, enableTx_eq, tStart, setTimer]

theorem trRsNo_events (e : Env) (w : Work) :
    (trRsNo e w).events = w.events ++ scEvents e.glob e.idx .readySleep .normalOperation := by
  simp only [trRsNo, sc_events, withChan_events]

/-- R131: `blr_active` is left as it is. -/
theorem trRsRm_chan (e : Env) (byRequest : Bool) (w : Work) :
    (trRsRm e byRequest w).chan =
      { w.chan with
        state := .repeatMessage
        txEnabled := if e.glob.passive then w.chan.txEnabled else true
        immTxCnt := if byRequest && w.chan.cfg.immTxEn then w.chan.cfg.immTxCount else w.chan.immTxCnt
        rsiIndicated := false
        tm := (rearmRepeat w.chan).tm } := by
  simp only [trRsRm, sc_chan, cancelRsi_chan, withChan_chan, enableTx_eq, loadBurst_eq, rearmRepeat_eq]

theorem trRsRm_events (e : Env) (byRequest : Bool) (w : Work) :
    (trRsRm e byRequest w).events
      = w.events ++ cancelEvents w.chan e.idx ++ scEvents e.glob e.idx .readySleep .repeatMessage := by
  simp only [trRsRm, sc_events, cancelRsi_events, withChan_chan, withChan_events, enableTx_eq, loadBurst_eq,
    rearmRepeat_eq]
  rfl

/-- R136. -/
theorem trRmReenter_chan (w : Work) :
    (trRmReenter w).chan =
      { w.chan with
        immTxCnt := if w.chan.cfg.immTxEn then w.chan.cfg.immTxCount else w.chan.immTxCnt
        tm := (rearmRepeat w.chan).tm } := by
  simp only [trRmReenter, withChan_chan, loadBurst_eq, rearmRepeat_eq, Bool.true_and]

/-! ### NETREQ in a sleeping mode -/

/-- The request latched, the first effect of NETREQ in every mode (R152). -/
def latchRequest (w : Work) : Work := withChan w { w.chan with requested := true }

theorem netreqRule_of_asleep {e : Env} {w : Work} (h : w.chan.mode ≠ .network) :
    netreqRule e w = andThen (netreqAsleep e (latchRequest w)) done := by
  unfold netreqRule
  dsimp only [withChan_chan]
  split
  · rfl
  · rfl
  · rename_i hmode
    exact absurd hmode h

/-- R152: the active-wakeup bit is set where it is configured, and the transmit buffer is untouched otherwise. -/
theorem exists_activeWakeup {p : Params} {c : Channel} {v : Byte} (h : c.cfg.awEn = true → CbvReadable p c v) :
    ∃ tx', (c.cfg.awEn = true → CbvWritten p c (v ||| ((1 : Byte) <<< p.cbvAw.val)) tx')
      ∧ (c.cfg.awEn = false → tx' = c.tx)
      ∧ (if c.cfg.awEn then cbvSet p p.cbvAw c else .next c) = .next { c with tx := tx' } := by
  cases haw : c.cfg.awEn with
  | false => exact ⟨c.tx, nofun, fun _ => rfl, rfl⟩
  | true =>
    obtain ⟨tx', hset, hwritten⟩ := cbvSet_of_readable (b := p.cbvAw) (h haw)
    exact ⟨tx', fun _ => hwritten, nofun, hset⟩

/-- R123 and R134 are one procedure, run on the record with the active-wakeup bit. -/
theorem netreqAsleep_eq_wake {e : Env} {w : Work} {c' : Channel}
    (h : (if w.chan.cfg.awEn then cbvSet e.params e.params.cbvAw w.chan else .next w.chan) = .next c') :
    netreqAsleep e w = .next (wake e true (withChan w c')) := by
  rw [netreqAsleep, h, andThen_next]
  exact congrArg Host.Outcome.next (ite_self _)

/-- Settles O16: the request is latched, the bit is set, and the channel wakes with a burst. -/
theorem netreqWakesASleepingChannel : Obligations.NetreqWakesASleepingChannel := by
  intro s ch c v haddr hmode hreadable
  obtain ⟨tx', hset, hkept, haw⟩ := exists_activeWakeup (c := { c with requested := true }) hreadable
  have hrule : netreqRule (envOf s ch) (startWork s c)
      = done (wake (envOf s ch) true (withChan (startWork s c) { c with requested := true, tx := tx' })) := by
    rw [netreqRule_of_asleep (w := startWork s c) hmode,
      netreqAsleep_eq_wake (e := envOf s ch) (w := latchRequest (startWork s c)) haw]
    rfl
  refine ⟨tx', hset, hkept, onChannel_done haddr hrule ?_ ?_⟩
  · rw [wake_chan]; rfl
  · rw [wake_events]; rfl

/-! ### NETREQ in Network mode -/

theorem netreqRule_of_awake {e : Env} {w : Work} (h : w.chan.mode = .network) :
    netreqRule e w = done (netreqAwake e (latchRequest w)) := by
  simp only [netreqRule, withChan_chan, h, latchRequest]

section Policy

variable {e : Env} {w : Work}

/-- R152(b): under the policy each network state re-enters Repeat-Message by its own transition. -/
theorem netreqAwake_of_readySleep (h : multiRequest w.chan.cfg = true) (hs : w.chan.state = .readySleep) :
    netreqAwake e w = trRsRm e true w := by
  simp only [netreqAwake, h, hs, if_true]

theorem netreqAwake_of_normalOperation (h : multiRequest w.chan.cfg = true)
    (hs : w.chan.state = .normalOperation) : netreqAwake e w = trNoRm e true w := by
  simp only [netreqAwake, h, hs, if_true]

theorem netreqAwake_of_repeatMessage (h : multiRequest w.chan.cfg = true) (hs : w.chan.state = .repeatMessage) :
    netreqAwake e w = trRmReenter w := by
  simp only [netreqAwake, h, hs, if_true]

/-- R152: without the policy only Ready-Sleep has a transition. -/
theorem netreqAwake_without_policy (h : multiRequest w.chan.cfg ≠ true) :
    netreqAwake e w = if w.chan.state = .readySleep then trRsNo e w else w := by
  rw [netreqAwake, if_neg h]

end Policy

/-- Settles O17: the transition of each network state, with the burst loaded because the policy includes `c.imm_tx_en`. -/
theorem netreqReentersRepeatMessageUnderThePolicy : Obligations.NetreqReentersRepeatMessageUnderThePolicy := by
  intro s ch c haddr hmode hmulti himm tm'
  have himm' : (latchRequest (startWork s c)).chan.cfg.immTxEn = true := himm
  have hpolicy : multiRequest (latchRequest (startWork s c)).chan.cfg = true := Bool.and_eq_true_iff.mpr ⟨hmulti, himm⟩
  have hrule := netreqRule_of_awake (e := envOf s ch) (w := startWork s c) hmode
  refine ⟨fun hs => ?_, fun hs => ?_, fun hs => ?_⟩
  · rw [netreqAwake_of_readySleep hpolicy hs] at hrule
    refine onChannel_done haddr hrule ?_ ?_
    · rw [trRsRm_chan, himm']; rfl
    · rw [trRsRm_events]; rfl
  · rw [netreqAwake_of_normalOperation hpolicy hs] at hrule
    refine onChannel_done haddr hrule ?_ ?_
    · rw [trNoRm_chan, himm']; rfl
    · rw [trNoRm_events]; rfl
  · rw [netreqAwake_of_repeatMessage hpolicy hs] at hrule
    refine onChannel_done haddr hrule ?_ rfl
    rw [trRmReenter_chan, himm']; rfl

/-- Settles O18: without the policy Ready-Sleep resumes and every other state keeps its record. -/
theorem netreqWithoutThePolicyResumesOrOnlyLatches : Obligations.NetreqWithoutThePolicyResumesOrOnlyLatches := by
  intro s ch c haddr hmode hpolicy
  have hnone : multiRequest (latchRequest (startWork s c)).chan.cfg ≠ true := fun h => hpolicy (Bool.and_eq_true_iff.mp h)
  have hrule := netreqRule_of_awake (e := envOf s ch) (w := startWork s c) hmode
  rw [netreqAwake_without_policy hnone] at hrule
  refine ⟨fun hs => ?_, fun hs => ?_⟩
  · rw [if_pos (show (latchRequest (startWork s c)).chan.state = _ from hs)] at hrule
    refine onChannel_done haddr hrule ?_ ?_
    · rw [trRsNo_chan]; rfl
    · rw [trRsNo_events]; rfl
  · rw [if_neg (show (latchRequest (startWork s c)).chan.state ≠ _ from hs)] at hrule
    exact onChannel_done haddr hrule rfl rfl

/-! ### NETREL and PSTART -/

/-- Settles O19: the request is cleared first, then Normal-Operation alone has a transition. -/
theorem netrelReleasesFromNormalOperationOnly : Obligations.NetrelReleasesFromNormalOperationOnly := by
  intro s ch c haddr
  refine ⟨fun hs => ?_, fun hs => ?_⟩
  · refine onChannel_done haddr (congrArg done (if_pos hs)) ?_ ?_
    · rw [trNoRs_chan]; rfl
    · rw [trNoRs_events]; rfl
  · exact onChannel_done haddr (congrArg done (if_neg hs)) rfl rfl

/-- Settles O20: the wake-up without a request, or the refusal. -/
theorem pstartWakesFromBusSleepOnly : Obligations.PstartWakesFromBusSleepOnly := by
  intro s ch c haddr
  refine ⟨fun hs => ?_, fun hs => onChannel_replies haddr (if_pos hs)⟩
  refine onChannel_done haddr (if_neg (not_not.mpr hs)) ?_ ?_
  · rw [trBsRm, wake_chan]; rfl
  · rw [trBsRm, wake_events, startWork_chan, hs]; rfl

/-! ### RMREQ -/

/-- R157 past its gates: the bit is set, then the transition of the channel's state runs without a burst. -/
theorem rmreqRule_of_network {e : Env} {w : Work} {c' : Channel} (hnd : w.chan.cfg.ndEn = true)
    (hs : w.chan.state = .readySleep ∨ w.chan.state = .normalOperation)
    (hset : cbvSet e.params e.params.cbvRmr w.chan = .next c') :
    rmreqRule e w =
      done (if w.chan.state = .readySleep then trRsRm e false (withChan w c') else trNoRm e false (withChan w c')) := by
  have hgates : ¬ (w.chan.cfg.ndEn = false ∨ (w.chan.state ≠ .readySleep ∧ w.chan.state ≠ .normalOperation)) := by
    simp only [hnd, reduceCtorEq, false_or, not_and_or, not_not]
    exact hs
  rw [rmreqRule, if_neg hgates, hset, andThen_next]

/-- Settles O22: from Ready-Sleep transmission is enabled unless passive, from Normal-Operation the bus load reduction
ends. -/
theorem rmreqSetsTheBitAndRepeats : Obligations.RmreqSetsTheBitAndRepeats := by
  intro s ch c v haddr hnd hs hreadable tm'
  obtain ⟨tx', hset, hwritten⟩ := cbvSet_of_readable (b := s.params.cbvRmr) hreadable
  have hrule := rmreqRule_of_network (e := envOf s ch) (w := startWork s c) hnd hs hset
  refine ⟨tx', hwritten, ?_⟩
  rcases hs with hs | hs
  · rw [if_pos (show (startWork s c).chan.state = _ from hs)] at hrule
    refine onChannel_done haddr hrule ?_ ?_
    · cases hp : s.glob.passive <;> simp [trRsRm_chan, rearmRepeat_eq, hs, hp, tm']
    · rw [trRsRm_events, hs]; rfl
  · rw [if_neg (show (startWork s c).chan.state ≠ _ by simp [hs])] at hrule
    refine onChannel_done haddr hrule ?_ ?_
    · simp [trNoRm_chan, rearmRepeat_eq, hs, tm']
    · rw [trNoRm_events, hs]; rfl

end Sys2Proof.Proofs.Control
end

section
/-! PROOFS, family 43_commands_control: R155, R156, R158 to R162, R183. The commands that make no transition: they write
flags or one bit, transmit, or read. -/

namespace Sys2Proof.Proofs.Control

open Sys2Proof Sys2Proof.Machine Sys2Proof.Proofs.Cbv

/-! ### Communication control -/

/-- Settles O21: past the gates each command writes its two flags and the `run` bit of its two timers. -/
theorem discomFreezesAndEncomResumes : Obligations.DiscomFreezesAndEncomResumes := by
  intro s ch c haddr hmode hpassive
  constructor
  · have hgates : ¬ (c.mode ≠ .network ∨ s.glob.passive = true) := by simp [hmode, hpassive]
    exact onChannel_done haddr (if_neg hgates) rfl rfl
  · intro hstopped
    have hgates : ¬ (c.mode ≠ .network ∨ s.glob.passive = true ∨ (getTimer c .msgCycle).run = true) := by
      simp [hmode, hpassive, getTimer, hstopped]
    exact onChannel_done haddr (if_neg hgates) rfl rfl

/-! ### Bus synchronisation -/

/-- R158 past its gates: the bus answer alone decides the code. -/
theorem bussyncRule_of_sent {e : Env} {w : Work} {r : Work × Bool} (htx : w.chan.txEnabled = true)
    (hpassive : e.glob.passive = false) (hsend : busTx e w = .next r) :
    bussyncRule e w = .next ⟨r.1, if r.2 then .ok else .eBus, 0, []⟩ := by
  have hgates : ¬ (w.chan.txEnabled = false ∨ e.glob.passive = true) := by simp [htx, hpassive]
  rw [bussyncRule, if_neg hgates, hsend, andThen_next]
  cases r.2 <;> rfl

/-- Settles O23: the frame is the readable buffer, and the transmit request leaves the record as it is. -/
theorem bussyncTransmitsTheBufferAsItStands : Obligations.BussyncTransmitsTheBufferAsItStands := by
  intro s ch c ok rest haddr htx hpassive hreadable hback
  obtain ⟨f, hframe⟩ := readTxFrame_of_readable hreadable
  obtain ⟨hlength, hbytes⟩ := readTxFrame_eq_next.mp hframe
  have hsend : busTx (envOf s ch) (startWork s c) = .next (⟨c, [.txReq ch f], rest⟩, ok) :=
    busTx_eq_next.mpr ⟨f, rest, hframe, hback, rfl⟩
  refine ⟨f, hlength, fun k hk _ => hbytes k hk, ?_⟩
  calc exec (.bussync ch) s
    _ = .next (commit s ch ⟨⟨c, [.txReq ch f], rest⟩, if ok then .ok else .eBus, 0, []⟩) := by
        rw [exec, execBussync, onChannel_addressed haddr, bussyncRule_of_sent htx hpassive hsend, andThen_next]
    _ = .next { s with rsp := some ⟨if ok then .ok else .eBus, 0, [], [.txReq ch f]⟩ } := by
        rw [commit, set_same haddr.left]

/-! ### One bit -/

/-- Settles O25: past its gate SETSRB is the framer's one bit and PNCONF one flag. -/
theorem setsrbAndPnconfSetOneBit : Obligations.SetsrbAndPnconfSetOneBit := by
  intro s ch c v haddr
  constructor
  · intro hcoord hreadable
    obtain ⟨tx', hset, hwritten⟩ := cbvSet_of_readable (b := s.params.cbvCsr) hreadable
    have hrule : setsrbRule (envOf s ch) (startWork s c) = done (withChan (startWork s c) { c with tx := tx' }) := by
      have hgate : ¬ (envOf s ch).glob.coordSync = false := by simp [hcoord]
      rw [setsrbRule, if_neg hgate]
      exact congrArg (andThen · _) hset
    exact ⟨tx', hwritten, onChannel_done haddr hrule rfl rfl⟩
  · intro hglobal hpn
    have hgates : ¬ (s.glob.pnGlobal = false ∨ c.cfg.pnEn = false) := by simp [hglobal, hpn]
    exact onChannel_done haddr (if_neg hgates) rfl rfl

/-! ### Readers -/

/-- R13 and R161: the byte of each legal pair. -/
theorem stateModeByte_of_legalPair {m : Mode} {st : NmState} (h : legalPair m st = true) :
    stateModeByte st m ∈ ([0x00, 0x04, 0x09, 0x0E, 0x12, 0x16] : List Byte) := by
  revert h
  cases m <;> cases st <;> decide

/-- Settles O24: each reader ends with the record it began with; GETST does so in Uninit too. -/
theorem flagAndStateReadersAnswerTheirValue : Obligations.FlagAndStateReadersAnswerTheirValue := by
  intro s ch c hc
  refine ⟨?getst, fun hsupport hs => ?chkrsi, fun hu hnid => ?getlnid, stateModeByte_of_legalPair⟩
  case getst =>
    rw [exec, execGetst, onAnyChannel_some hc]
    exact congrArg Host.Outcome.next (commit_startWork hc ..)
  case chkrsi =>
    have hu : c.state ≠ .uninit := by rcases hs with hs | hs <;> simp [hs]
    have hgates : ¬ (s.glob.rsiSupport = false ∨ (c.state ≠ .normalOperation ∧ c.state ≠ .readySleep)) := by
      simp only [hsupport, reduceCtorEq, false_or, not_and_or, not_not]
      exact hs
    exact onChannel_replies ⟨hc, hu⟩ (if_neg hgates)
  case getlnid =>
    have hgate : ¬ c.cfg.nidEn = false := by simp [hnid]
    exact onChannel_replies ⟨hc, hu⟩ (if_neg hgate)

end Sys2Proof.Proofs.Control
end

section
/-! PROOFS, family 44_commands_data: R180 to R182, R184, R185. The commands that copy bytes between a buffer and a
stream. Which frame a channel received last is one predicate of its record, and the three readers answer slices of that
frame. -/

namespace Sys2Proof.Proofs.Data

open Sys2Proof Sys2Proof.Machine Sys2Proof.Proofs.Control

/-! ### SETUD -/

/-- A stream that fits is written into the transmit buffer. -/
theorem writeTxFrom_of_fits {c : Channel} {k : Nat} {d : List Byte} (h : k + d.length ≤ c.cfg.txLen.toNat) :
    writeTxFrom c k d = .next { c with tx := writeCells c.tx (txAddr k) d } :=
  writeTxFrom_eq_next.mpr ⟨h, rfl⟩

/-- R180 past its gates: the stream stands from `UdOff` on. -/
theorem setudRule_of_owned {din : List Byte} {e : Env} {w : Work} (henabled : e.glob.userDataEn = true)
    (hown : e.glob.udExternal = false) (hoff : udOff e.params w.chan.cfg ≤ w.chan.cfg.txLen.toNat)
    (hlen : din.length = udLen e.params w.chan.cfg) :
    setudRule din e w = done (withChan w
      { w.chan with tx := writeCells w.chan.tx (txAddr (udOff e.params w.chan.cfg)) din }) := by
  have hgates : ¬ (e.glob.userDataEn = false ∨ e.glob.udExternal = true) := by simp [henabled, hown]
  have hfits : udOff e.params w.chan.cfg + din.length ≤ w.chan.cfg.txLen.toNat := by rw [hlen, udLen]; omega
  rw [setudRule, requireStream_of_eq hlen, if_neg hgates, writeTxFrom_of_fits hfits, andThen_next]

theorem exec_setud_of_owned {s : State} {ch : ChIdx} {c : Channel} (haddr : Addressed s ch c)
    (henabled : s.glob.userDataEn = true) (hown : s.glob.udExternal = false)
    (hoff : udOff s.params c.cfg ≤ c.cfg.txLen.toNat) (hlen : s.operands.din.length = udLen s.params c.cfg) :
    exec (.setud ch) s = .next (responded s ch
      { c with tx := writeCells c.tx (txAddr (udOff s.params c.cfg)) s.operands.din } .ok []) :=
  onChannel_done haddr (setudRule_of_owned henabled hown hoff hlen) rfl rfl

/-- SETUD that goes on had a stream of the length R82 asks for. -/
theorem din_length_of_exec_setud {s t : State} {ch : ChIdx} {c : Channel} (haddr : Addressed s ch c)
    (h : exec (.setud ch) s = .next t) : s.operands.din.length = udLen s.params c.cfg := by
  by_contra hne
  have hrefused : setudRule s.operands.din (envOf s ch) (startWork s c) = .refused .streamLength :=
    requireStream_of_ne hne _
  rw [exec, execSetud, onChannel_addressed haddr, hrefused] at h
  cases h

/-- Settles O26: the region from `UdOff` to the end of the frame is as long as the stream. -/
theorem setudWritesTheUserDataRegionOnly : Obligations.SetudWritesTheUserDataRegionOnly := by
  intro s ch c haddr henabled hown hoff hlen
  refine ⟨_, exec_setud_of_owned haddr henabled hown hoff hlen, fun a => ?_⟩
  have hend : udOff s.params c.cfg + s.operands.din.length = c.cfg.txLen.toNat := by omega
  rw [readCell_writeCells, txAddr, hend]

/-! ### The newest frame -/

/-- Positions of one slot have consecutive addresses. -/
theorem rxAddr_add (slot k j : Nat) : rxAddr slot k + j = rxAddr slot (k + j) := Nat.add_assoc ..

/-- `f` is the frame the channel received last: the bytes of slot `rx_last` of its ring (R51, R55). -/
structure NewestFrame (c : Channel) (f : List Byte) : Prop where
  received : c.rxLast ≠ Config.rxNone
  inRing : c.rxLast.toNat < c.cfg.rxDepth.toNat
  length : f.length = c.cfg.rxLen.toNat
  bytes : ∀ k, k < c.cfg.rxLen.toNat → readCell c.rx (rxAddr c.rxLast.toNat k) = f[k]?

theorem exists_newestFrame {c : Channel} (h : RxReadable c) : ∃ f, NewestFrame c f := by
  obtain ⟨hreceived, hring, hslot⟩ := h
  obtain ⟨f, hf⟩ := readCells_isSome (m := c.rx) (a := rxAddr c.rxLast.toNat 0) fun k hk => by
    rw [rxAddr_add, Nat.zero_add]
    exact hslot k hk
  obtain ⟨hlength, hbytes⟩ := readCells_eq_some.mp hf
  refine ⟨f, hreceived, hring, hlength, fun k hk => ?_⟩
  rw [← hbytes k hk, rxAddr_add, Nat.zero_add]

section Readers

variable {s : State} {ch : ChIdx} {c : Channel} {f : List Byte}

/-- Bytes read from the newest slot are a slice of the newest frame. -/
theorem NewestFrame.readRx_eq (hf : NewestFrame c f) {k n : Nat} (hk : k + n ≤ c.cfg.rxLen.toNat) :
    readRx c k n = .next ((f.drop k).take n) := by
  refine readRx_eq_next.mpr ⟨⟨hf.inRing, hk⟩, ?_, fun j hj => ?_⟩
  · rw [List.length_take, List.length_drop, hf.length]
    omega
  · rw [List.getElem?_take_of_lt hj, List.getElem?_drop, ← hf.bytes (k + j) (by omega), rxAddr_add]

/-- R184: the whole frame. -/
theorem NewestFrame.exec_getpdu (hf : NewestFrame c f) (haddr : Addressed s ch c) :
    exec (.getpdu ch) s = .next (replied s .ok 0 f) := by
  refine onChannel_replies haddr ?_
  have hread : readRx c 0 c.cfg.rxLen.toNat = .next f := by
    rw [hf.readRx_eq (Nat.zero_add _).le, List.drop_zero, ← hf.length, List.take_length]
  exact (if_neg hf.received).trans (congrArg (andThen · _) hread)

/-- R181: the frame from `UdOff` on. -/
theorem NewestFrame.exec_getud (hf : NewestFrame c f) (haddr : Addressed s ch c) (henabled : s.glob.userDataEn = true)
    (hoff : udOff s.params c.cfg ≤ c.cfg.rxLen.toNat) :
    exec (.getud ch) s = .next (replied s .ok 0 (f.drop (udOff s.params c.cfg))) := by
  refine onChannel_replies haddr ?_
  have hgates : ¬ (s.glob.userDataEn = false ∨ c.rxLast = Config.rxNone) := by simp [henabled, hf.received]
  have hread : readRx c (udOff s.params c.cfg) (c.cfg.rxLen.toNat - udOff s.params c.cfg)
      = .next (f.drop (udOff s.params c.cfg)) := by
    rw [hf.readRx_eq (by omega), ← hf.length, ← List.length_drop, List.take_length]
  exact (if_neg hgates).trans (congrArg (andThen · _) hread)

/-- R182: the byte at the configured position. -/
theorem NewestFrame.exec_getnid (hf : NewestFrame c f) (haddr : Addressed s ch c) (hnid : c.cfg.nidEn = true)
    (hpresent : c.cfg.nidPos ≠ s.params.absent) (hpos : c.cfg.nidPos.toNat < c.cfg.rxLen.toNat) :
    ∃ b, f[c.cfg.nidPos.toNat]? = some b ∧ exec (.getnid ch) s = .next (replied s .ok b []) := by
  have hlt : c.cfg.nidPos.toNat < f.length := hf.length ▸ hpos
  refine ⟨f[c.cfg.nidPos.toNat], List.getElem?_eq_getElem hlt, onChannel_replies haddr ?_⟩
  have hgates : ¬ (c.cfg.nidEn = false ∨ c.cfg.nidPos = s.params.absent ∨ c.rxLast = Config.rxNone) := by
    simp [hnid, hpresent, hf.received]
  have hread : readRx c c.cfg.nidPos.toNat 1 = .next [f[c.cfg.nidPos.toNat]] := by
    rw [hf.readRx_eq hpos, List.drop_eq_getElem_cons hlt, List.take_succ_cons, List.take_zero]
  exact (if_neg hgates).trans (congrArg (andThen · _) hread)

end Readers

/-- Settles O27: the readable slot holds one frame, and each reader answers from it. -/
theorem frameReadersAnswerTheNewestFrame : Obligations.FrameReadersAnswerTheNewestFrame := by
  intro s ch c haddr hreadable
  obtain ⟨f, hf⟩ := exists_newestFrame hreadable
  exact ⟨f, hf.length, hf.bytes, hf.exec_getpdu haddr, hf.exec_getud haddr, hf.exec_getnid haddr⟩

/-! ### TRIGTX -/

/-- R185 into a large enough buffer. -/
theorem exec_trigtx_of_fits {s : State} {ch : ChIdx} {c : Channel} {f : List Byte} (haddr : Addressed s ch c)
    (hcap : c.cfg.txLen.toNat ≤ s.operands.cap.toNat) (hframe : readTxFrame c = .next f) :
    exec (.trigtx ch) s = .next (replied s .ok 0 f) :=
  onChannel_replies haddr ((if_neg hcap.not_gt).trans (congrArg (andThen · _) hframe))

/-- R185 into a smaller buffer. -/
theorem exec_trigtx_of_small {s : State} {ch : ChIdx} {c : Channel} (haddr : Addressed s ch c)
    (hcap : s.operands.cap.toNat < c.cfg.txLen.toNat) : exec (.trigtx ch) s = .next (replied s .ePrecond 0 []) :=
  onChannel_replies haddr (if_pos hcap)

/-- What R185 can answer: the refusal, or the transmit buffer. -/
theorem trigtxRule_eq_next {cap : Byte} {e : Env} {w : Work} {a : Answer} (h : trigtxRule cap e w = .next a) :
    a = ⟨w, .ePrecond, 0, []⟩ ∨ ∃ f, readTxFrame w.chan = .next f ∧ a = ⟨w, .ok, 0, f⟩ := by
  unfold trigtxRule at h
  split at h
  · cases h
    exact .inl rfl
  · obtain ⟨f, hframe, h⟩ := andThen_eq_next.mp h
    cases h
    exact .inr ⟨f, hframe, rfl⟩

/-- TRIGTX answered OK with a frame: the frame is the transmit buffer, and nothing else has changed. -/
theorem eq_of_exec_trigtx_ok {s u : State} {ch : ChIdx} {c : Channel} {f : List Byte} (haddr : Addressed s ch c)
    (h : exec (.trigtx ch) s = .next u) (hrsp : u.rsp = some ⟨.ok, 0, f, []⟩) :
    readTxFrame c = .next f ∧ u = replied s .ok 0 f := by
  rw [exec, execTrigtx, onChannel_addressed haddr] at h
  obtain ⟨a, hrule, h⟩ := andThen_eq_next.mp h
  cases h
  rcases trigtxRule_eq_next hrule with rfl | ⟨f', hframe, rfl⟩
  · cases hrsp
  · cases hrsp
    exact ⟨hframe, commit_startWork haddr.left ..⟩

/-- Settles O28: the readable buffer is the frame sent, and a small capacity is refused before anything is read. -/
theorem trigtxCopiesTheFrameOrNothing : Obligations.TrigtxCopiesTheFrameOrNothing := by
  intro s ch c haddr hreadable
  refine ⟨fun hcap => ?_, exec_trigtx_of_small haddr⟩
  obtain ⟨f, hframe⟩ := readTxFrame_of_readable hreadable
  obtain ⟨hlength, hbytes⟩ := readTxFrame_eq_next.mp hframe
  exact ⟨f, hlength, fun k hk _ => hbytes k hk, exec_trigtx_of_fits haddr hcap hframe⟩

end Sys2Proof.Proofs.Data
end

section
/-! PROOFS, family 44_commands_data: R186 and R187. A reception stores its frame, forwards it and reacts by the
channel's mode; each of the three is said once, then each statement is the reaction of one mode. -/

namespace Sys2Proof.Proofs.Data

open Sys2Proof Sys2Proof.Machine Sys2Proof.Proofs.State Sys2Proof.Proofs.Control

/-! ### TXCONF -/

/-- The forwarding event of R186 and R187 is emitted as the configuration says, and nothing else happens. -/
theorem emit_of_forwards (g : GlobCfg) (ev : Event) (w : Work) :
    (if forwards g then emit ev w else w) = ⟨w.chan, w.events ++ forwardEvents g ev, w.back⟩ := by
  unfold forwards forwardEvents
  split
  · rfl
  · rw [List.append_nil]

/-- Settles O30: only a success in Network mode writes a timer; the event does not depend on it. -/
theorem txconfRearmsTheTimeoutOnSuccess : Obligations.TxconfRearmsTheTimeoutOnSuccess := by
  intro s ch c failed haddr
  have hrule := congrArg done (emit_of_forwards s.glob (.udTxConf ch failed)
    (if failed = false ∧ c.mode = .network then rearmTimeout (startWork s c) else startWork s c))
  refine onChannel_done haddr hrule ?_ ?_ <;> dsimp only <;> split <;> rfl

/-! ### A frame stored -/

/-- The record with the frame `f` in the next slot of its ring (R55). -/
def stored (c : Channel) (f : List Byte) : Channel :=
  { c with rxLast := BitVec.ofNat 8 (nextSlot c), rx := writeCells c.rx (rxAddr (nextSlot c) 0) f }

theorem storeRx_of_fits {c : Channel} {f : List Byte} (hdepth : 1 ≤ c.cfg.rxDepth.toNat)
    (hlen : f.length = c.cfg.rxLen.toNat) : storeRx c f = .next (stored c f) :=
  storeRx_eq_next.mpr ⟨⟨nextSlot_lt hdepth, hlen.le⟩, rfl⟩

/-- The ring after a reception is as before but for the next slot. -/
theorem slotWritten_stored (c : Channel) (f : List Byte) : SlotWritten c (nextSlot c) f (stored c f).rx :=
  fun a => readCell_writeCells c.rx _ a f

/-- R55: the frame stored is the newest one, because the index of a slot is never `NONE`. -/
theorem newestFrame_stored {c : Channel} {f : List Byte} (hdepth : 1 ≤ c.cfg.rxDepth.toNat)
    (hlen : f.length = c.cfg.rxLen.toNat) : NewestFrame (stored c f) f := by
  have hslot := nextSlot_lt hdepth
  have hidx : (stored c f).rxLast.toNat = nextSlot c := by
    rw [stored, BitVec.toNat_ofNat]
    exact Nat.mod_eq_of_lt (hslot.trans c.cfg.rxDepth.isLt)
  refine ⟨fun hnone => ?_, hidx ▸ hslot, hlen, fun k hk => ?_⟩
  · have hff : nextSlot c = 255 := by rw [← hidx, hnone]; rfl
    have hbyte := c.cfg.rxDepth.isLt
    omega
  · have haddr : rxAddr (nextSlot c) k = rxAddr (nextSlot c) 0 + k := by rw [rxAddr_add, Nat.zero_add]
    have hin : k < f.length := hlen ▸ hk
    rw [hidx, slotWritten_stored, haddr, if_pos (by omega), Nat.add_sub_cancel_left]

/-! ### RXIND -/

/-- The command in progress when RXIND comes to react: the frame is stored and forwarded (R187, part 1). -/
def received (e : Env) (f : List Byte) (w : Work) : Work :=
  ⟨stored w.chan f, w.events ++ forwardEvents e.glob (.udRx e.idx f), w.back⟩

theorem rxindRule_of_fits {e : Env} {w : Work} {f : List Byte} (hdepth : 1 ≤ w.chan.cfg.rxDepth.toNat)
    (hlen : f.length = w.chan.cfg.rxLen.toNat) :
    rxindRule f e w = done (rxReact e (cbvRxBit e.params w.chan.cfg f e.params.cbvRmr) (received e f w)) := by
  rw [rxindRule, requireStream_of_eq hlen, storeRx_of_fits hdepth hlen, andThen_next]
  exact congrArg (fun v => done (rxReact e _ v))
    (emit_of_forwards e.glob (.udRx e.idx f) (withChan w (stored w.chan f)))

/-- RXIND whose stream fits ends OK with what its reaction leaves. -/
theorem exec_rxind {s : State} {ch : ChIdx} {c c' : Channel} {evs : List Event} (haddr : Addressed s ch c)
    (hlen : s.operands.din.length = c.cfg.rxLen.toNat) (hdepth : 1 ≤ c.cfg.rxDepth.toNat) {w : Work}
    (hreact : rxReact (envOf s ch) (cbvRxBit s.params c.cfg s.operands.din s.params.cbvRmr)
      (received (envOf s ch) s.operands.din (startWork s c)) = w)
    (hchan : w.chan = c') (hevents : w.events = evs) :
    exec (.rxind ch) s = .next (responded s ch c' .ok evs) :=
  onChannel_done haddr ((rxindRule_of_fits (w := startWork s c) hdepth hlen).trans (congrArg done hreact)) hchan hevents

/-! ### The reaction in a sleeping mode -/

theorem trBsBs_chan (e : Env) (w : Work) : (trBsBs e w).chan = w.chan := by
  rw [trBsBs, sc_chan, emit_chan]

theorem trBsBs_events (e : Env) (w : Work) :
    (trBsBs e w).events = w.events ++ .networkStart e.idx :: scEvents e.glob e.idx .busSleep .busSleep := by
  rw [trBsBs, sc_events, emit_events, List.append_assoc, List.singleton_append]

theorem rxReact_of_busSleep {e : Env} {rmr : Bool} {w : Work} (h : w.chan.mode = .busSleep) :
    rxReact e rmr w = trBsBs e w := by
  simp only [rxReact, h]

theorem rxReact_of_prepareBusSleep {e : Env} {rmr : Bool} {w : Work} (h : w.chan.mode = .prepareBusSleep) :
    rxReact e rmr w = wake e false w := by
  simp only [rxReact, h, trPbsRm]

/-- Settles O31: Bus-Sleep keeps the record with the frame, Prepare-Bus-Sleep wakes it without a burst. -/
theorem rxindStoresAndWakesFromPrepareBusSleep : Obligations.RxindStoresAndWakesFromPrepareBusSleep := by
  rintro s ch c slot haddr hlen hdepth (rfl : slot = nextSlot c)
  refine ⟨nextSlot_lt hdepth, fun hmode => ?busSleep, fun hmode => ?prepareBusSleep⟩
  case busSleep =>
    refine ⟨_, slotWritten_stored c _, exec_rxind haddr hlen hdepth (rxReact_of_busSleep hmode) ?_ ?_⟩
    · rw [trBsBs_chan]; rfl
    · rw [trBsBs_events]; rfl
  case prepareBusSleep =>
    refine ⟨_, slotWritten_stored c _, exec_rxind haddr hlen hdepth (rxReact_of_prepareBusSleep hmode) ?_ ?_⟩
    · rw [wake_chan]; rfl
    · rw [wake_events]; rfl

/-! ### The reaction in Network mode -/

/-- The record after the part of a reception in Network mode that keeps the state (R187(d) to (f)). -/
def rearmedByReception (c : Channel) : Channel :=
  { c with
    rsiIndicated := c.rsiIndicated && !c.rsiEnabled
    tm := { c.tm with
      timeout := ⟨true, c.cfg.tTimeout⟩
      msgCycle := if c.blrActive then ⟨true, c.cfg.tReduced⟩ else c.tm.msgCycle
      remoteSleep := if c.rsiEnabled = true ∧ c.state = .normalOperation then ⟨true, c.cfg.tRsi⟩
                     else c.tm.remoteSleep } }

/-- The event of that part: an indication is cancelled while `rsi_enabled` (R187(e)). -/
def receptionCancels (c : Channel) (ch : ChIdx) : List Event :=
  if c.rsiEnabled && c.rsiIndicated then [.rsiCancel ch] else []

theorem rxRemoteSleep_chan (e : Env) (w : Work) :
    (rxRemoteSleep e w).chan =
      { w.chan with
        rsiIndicated := w.chan.rsiIndicated && !w.chan.rsiEnabled
        tm := { w.chan.tm with
          remoteSleep := if w.chan.rsiEnabled = true ∧ w.chan.state = .normalOperation then ⟨true, w.chan.cfg.tRsi⟩
                         else w.chan.tm.remoteSleep } } := by
  by_cases hrsi : w.chan.rsiEnabled = true
  · by_cases hs : w.chan.state = .normalOperation <;> simp [rxRemoteSleep, hrsi, hs, tStart, setTimer]
  · have hkept : (w.chan.rsiIndicated && !w.chan.rsiEnabled) = w.chan.rsiIndicated := by simp [hrsi]
    rw [rxRemoteSleep, if_neg hrsi, hkept, if_neg fun h => hrsi h.left]

theorem rxRemoteSleep_events (e : Env) (w : Work) :
    (rxRemoteSleep e w).events = w.events ++ receptionCancels w.chan e.idx := by
  by_cases hrsi : w.chan.rsiEnabled = true
  · have hcancel : (rxRemoteSleep e w).events = (cancelRsi e w).events := by
      rw [rxRemoteSleep, if_pos hrsi]
      exact (apply_ite Work.events _ _ _).trans (ite_self _)
    rw [hcancel, cancelRsi_events, receptionCancels, cancelEvents, hrsi, Bool.true_and]
  · simp [rxRemoteSleep, receptionCancels, hrsi]

theorem rxReduced_chan (w : Work) :
    (rxReduced w).chan =
      { w.chan with
        tm := { w.chan.tm with
          msgCycle := if w.chan.blrActive then ⟨true, w.chan.cfg.tReduced⟩ else w.chan.tm.msgCycle } } := by
  unfold rxReduced
  split <;> rfl

theorem rxReduced_events (w : Work) : (rxReduced w).events = w.events := by
  unfold rxReduced
  split <;> rfl

/-- The part of the reaction in Network mode that comes before the repeat-message bit. -/
def rxRearm (e : Env) (w : Work) : Work := rxReduced (rxRemoteSleep e (rxSelf w))

theorem rxRearm_chan (e : Env) (w : Work) : (rxRearm e w).chan = rearmedByReception w.chan := by
  rw [rxRearm, rxReduced_chan, rxRemoteSleep_chan, rxSelf_eq_rearmTimeout]
  rfl

theorem rxRearm_events (e : Env) (w : Work) :
    (rxRearm e w).events = w.events ++ receptionCancels w.chan e.idx := by
  rw [rxRearm, rxReduced_events, rxRemoteSleep_events, rxSelf_eq_rearmTimeout]
  rfl

theorem rxReact_of_network {e : Env} {rmr : Bool} {w : Work} (h : w.chan.mode = .network) :
    rxReact e rmr w = rxRepeatBit e rmr (rxRearm e w) := by
  simp only [rxReact, h, rxRearm]

/-- R187, the last block: without the bit, or outside the two states that follow it, nothing more happens. -/
theorem rxRepeatBit_of_not_followed {e : Env} {rmr : Bool} {w : Work}
    (h : rmr = false ∨ (w.chan.state ≠ .normalOperation ∧ w.chan.state ≠ .readySleep)) :
    rxRepeatBit e rmr w = w := by
  rcases h with rfl | ⟨hno, hrs⟩
  · rfl
  · unfold rxRepeatBit
    split
    · split
      · exact absurd ‹_› hno
      · exact absurd ‹_› hrs
      all_goals rfl
    · rfl

theorem rxRepeatBit_of_normalOperation {e : Env} {w : Work} (h : w.chan.state = .normalOperation) :
    rxRepeatBit e true w = trNoRm e false w := by
  simp only [rxRepeatBit, h, if_true]

theorem rxRepeatBit_of_readySleep {e : Env} {w : Work} (h : w.chan.state = .readySleep) :
    rxRepeatBit e true w = trRsRm e false w := by
  simp only [rxRepeatBit, h, if_true]

/-- Settles O32: the reaction ends where the repeat-message bit is looked at. -/
theorem rxindInNetworkModeKeepsTheState : Obligations.RxindInNetworkModeKeepsTheState := by
  rintro s ch c slot haddr hmode hlen hdepth (rfl : slot = nextSlot c) hbit
  have hkeep : rxReact (envOf s ch) (cbvRxBit s.params c.cfg s.operands.din s.params.cbvRmr)
      (received (envOf s ch) s.operands.din (startWork s c))
      = rxRearm (envOf s ch) (received (envOf s ch) s.operands.din (startWork s c)) := by
    rw [rxReact_of_network hmode]
    exact rxRepeatBit_of_not_followed (by rw [rxRearm_chan]; exact hbit)
  refine ⟨_, slotWritten_stored c _, exec_rxind haddr hlen hdepth hkeep ?_ ?_⟩
  · rw [rxRearm_chan]; rfl
  · rw [rxRearm_events]; rfl

/-- An indication is cancelled once, by the reception or by the transition that follows it. -/
theorem rxRearm_events_append_cancel (e : Env) (w : Work) :
    (rxRearm e w).events ++ cancelEvents (rxRearm e w).chan e.idx = w.events ++ cancelEvents w.chan e.idx := by
  rw [rxRearm_chan, rxRearm_events, List.append_assoc]
  congr 1
  cases hen : w.chan.rsiEnabled <;> cases hind : w.chan.rsiIndicated <;>
    simp [receptionCancels, cancelEvents, rearmedByReception, hen, hind]

/-- Settles O33: the transition starts from the record the reception has re-armed, and its message-cycle offset wins
(R187(f)). -/
theorem rxindWithTheBitEntersRepeatMessage : Obligations.RxindWithTheBitEntersRepeatMessage := by
  rintro s ch c slot haddr hmode hlen hdepth (rfl : slot = nextSlot c) hbit hs
  have hreact := rxReact_of_network (e := envOf s ch) (rmr := true)
    (w := received (envOf s ch) s.operands.din (startWork s c)) hmode
  refine ⟨_, slotWritten_stored c _, ?_⟩
  rcases hs with hs | hs
  · rw [rxRepeatBit_of_normalOperation (by rw [rxRearm_chan]; exact hs)] at hreact
    refine exec_rxind haddr hlen hdepth (hbit ▸ hreact) ?_ ?_
    · simp [trNoRm_chan, rxRearm_chan, rearmRepeat_eq, rearmedByReception, received, stored, hs]
    · rw [trNoRm_events, rxRearm_events_append_cancel, hs]; rfl
  · rw [rxRepeatBit_of_readySleep (by rw [rxRearm_chan]; exact hs)] at hreact
    refine exec_rxind haddr hlen hdepth (hbit ▸ hreact) ?_ ?_
    · cases hp : s.glob.passive <;>
        simp [trRsRm_chan, rxRearm_chan, rearmRepeat_eq, rearmedByReception, received, stored, hs, hp]
    · rw [trRsRm_events, rxRearm_events_append_cancel, hs]; rfl

end Sys2Proof.Proofs.Data
end

section
/-! PROOFS, family 44_commands_data: the round trip of the user data (source §8). No reaction to a reception touches the
frame just stored, so what SETUD wrote comes back through TRIGTX, RXIND and GETUD. -/

namespace Sys2Proof.Proofs.Data

open Sys2Proof Sys2Proof.Machine Sys2Proof.Proofs.Control

/-! ### What the reaction to a reception leaves -/

/-- The two records have the same configuration and the same receive ring. -/
structure SameRing (c c' : Channel) : Prop where
  cfg : c'.cfg = c.cfg
  rxLast : c'.rxLast = c.rxLast
  rx : c'.rx = c.rx

theorem NewestFrame.of_sameRing {c c' : Channel} {f : List Byte} (hf : NewestFrame c f) (h : SameRing c c') :
    NewestFrame c' f := by
  obtain ⟨hreceived, hring, hlength, hbytes⟩ := hf
  rw [← h.rxLast, ← h.cfg] at hring
  rw [← h.cfg] at hlength
  rw [← h.cfg, ← h.rxLast, ← h.rx] at hbytes
  exact ⟨h.rxLast ▸ hreceived, hring, hlength, hbytes⟩

/-- The transition by the repeat-message bit leaves the ring and does not leave Uninit behind. -/
theorem rxRepeatBit_keeps (e : Env) (rmr : Bool) (w : Work) :
    SameRing w.chan (rxRepeatBit e rmr w).chan
      ∧ (w.chan.state ≠ .uninit → (rxRepeatBit e rmr w).chan.state ≠ .uninit) := by
  by_cases hkeep : rmr = false ∨ (w.chan.state ≠ .normalOperation ∧ w.chan.state ≠ .readySleep)
  · rw [rxRepeatBit_of_not_followed hkeep]
    exact ⟨⟨rfl, rfl, rfl⟩, id⟩
  · simp only [not_or, not_and_or, not_not, Bool.not_eq_false] at hkeep
    obtain ⟨rfl, hs | hs⟩ := hkeep
    · rw [rxRepeatBit_of_normalOperation hs, trNoRm_chan]
      exact ⟨⟨rfl, rfl, rfl⟩, fun _ => nofun⟩
    · rw [rxRepeatBit_of_readySleep hs, trRsRm_chan]
      exact ⟨⟨rfl, rfl, rfl⟩, fun _ => nofun⟩

/-- RXIND's reaction leaves the ring in every mode, and an initialised channel stays initialised. -/
theorem rxReact_keeps (e : Env) (rmr : Bool) (w : Work) :
    SameRing w.chan (rxReact e rmr w).chan ∧ (w.chan.state ≠ .uninit → (rxReact e rmr w).chan.state ≠ .uninit) := by
  cases hmode : w.chan.mode with
  | busSleep =>
    rw [rxReact_of_busSleep hmode, trBsBs_chan]
    exact ⟨⟨rfl, rfl, rfl⟩, id⟩
  | prepareBusSleep =>
    rw [rxReact_of_prepareBusSleep hmode, wake_chan]
    exact ⟨⟨rfl, rfl, rfl⟩, fun _ => nofun⟩
  | network =>
    rw [rxReact_of_network hmode]
    have h := rxRepeatBit_keeps e rmr (rxRearm e w)
    rw [rxRearm_chan] at h
    exact ⟨⟨h.left.cfg, h.left.rxLast, h.left.rx⟩, h.right⟩

/-! ### The round trip -/

/-- R36(b) to (d): a legal ring has a slot, and the user data begins within both frames. -/
theorem bounds_of_legalChan {p : Params} {c : ChanCfg} (h : legalChan p c = true) :
    1 ≤ c.rxDepth.toNat ∧ udOff p c ≤ c.txLen.toNat ∧ udOff p c ≤ c.rxLen.toNat := by
  simp only [legalChan, Bool.and_eq_true, decide_eq_true_eq] at h
  omega

/-- The channel a command has written is there as it was written. -/
theorem addressed_responded {s : State} {ch : ChIdx} {c c' : Channel} (h : Addressed s ch c) (hu : c'.state ≠ .uninit)
    (k : ResultCode) (evs : List Event) : Addressed (responded s ch c' k evs) ch c' :=
  ⟨List.getElem?_set_self (List.getElem?_eq_some_iff.mp h.left).1, hu⟩

/-- A reception leaves the channel initialised and its newest frame the one received. -/
theorem exists_exec_rxind {s : State} {ch : ChIdx} {c : Channel} (haddr : Addressed s ch c)
    (hlen : s.operands.din.length = c.cfg.rxLen.toNat) (hdepth : 1 ≤ c.cfg.rxDepth.toNat) :
    ∃ c' evs, exec (.rxind ch) s = .next (responded s ch c' .ok evs) ∧ c'.state ≠ .uninit ∧ c'.cfg = c.cfg
      ∧ NewestFrame c' s.operands.din := by
  obtain ⟨hring, hinit⟩ := rxReact_keeps (envOf s ch) (cbvRxBit s.params c.cfg s.operands.din s.params.cbvRmr)
    (received (envOf s ch) s.operands.din (startWork s c))
  exact ⟨_, _, exec_rxind haddr hlen hdepth rfl rfl rfl, hinit haddr.right, hring.cfg,
    (newestFrame_stored hdepth hlen).of_sameRing hring⟩

/-- The user data of a frame read from a transmit buffer that `d` was written to, to its end, is `d`. -/
theorem drop_of_readTxFrame {c : Channel} {m : Memory} {off : Nat} {d f : List Byte}
    (hend : off + d.length = c.cfg.txLen.toNat)
    (h : readTxFrame { c with tx := writeCells m (txAddr off) d } = .next f) : f.drop off = d := by
  obtain ⟨hlength, hbytes⟩ := readTxFrame_eq_next.mp h
  refine List.ext_getElem? fun j => ?_
  rw [List.getElem?_drop]
  by_cases hj : j < d.length
  · have hbyte := hbytes (off + j) (by dsimp only; omega)
    rw [readCell_writeCells, txAddr, txAddr, if_pos (by omega), Nat.add_sub_cancel_left] at hbyte
    exact hbyte.symm
  · dsimp only at hlength
    rw [List.getElem?_eq_none (by omega), List.getElem?_eq_none (by omega)]

/-- The way out: TRIGTX after SETUD sends a frame whose user data are the bytes set, and leaves the configuration. -/
theorem exec_setud_then_trigtx {s t u : State} {ch : ChIdx} {c : Channel} {f : List Byte} (haddr : Addressed s ch c)
    (henabled : s.glob.userDataEn = true) (hown : s.glob.udExternal = false)
    (hoff : udOff s.params c.cfg ≤ c.cfg.txLen.toNat) (hset : exec (.setud ch) s = .next t)
    (htrig : exec (.trigtx ch) t = .next u) (hrsp : u.rsp = some ⟨.ok, 0, f, []⟩) :
    f.length = c.cfg.txLen.toNat ∧ f.drop (udOff s.params c.cfg) = s.operands.din
      ∧ u.params = s.params ∧ u.glob = s.glob ∧ ∃ c', Addressed u ch c' ∧ c'.cfg = c.cfg := by
  have hlen := din_length_of_exec_setud haddr hset
  have hend : udOff s.params c.cfg + s.operands.din.length = c.cfg.txLen.toNat := by rw [hlen, udLen]; omega
  cases (exec_setud_of_owned haddr henabled hown hoff hlen).symm.trans hset
  have hwritten := addressed_responded haddr
    (c' := { c with tx := writeCells c.tx (txAddr (udOff s.params c.cfg)) s.operands.din }) haddr.right .ok []
  obtain ⟨hframe, rfl⟩ := eq_of_exec_trigtx_ok hwritten htrig hrsp
  exact ⟨(readTxFrame_eq_next.mp hframe).left, drop_of_readTxFrame hend hframe, rfl, rfl, _, hwritten, rfl⟩

/-- The way in: GETUD after RXIND answers the user data of the frame received. -/
theorem exec_rxind_then_getud {s : State} {ch : ChIdx} {c : Channel} (haddr : Addressed s ch c)
    (hlen : s.operands.din.length = c.cfg.rxLen.toNat) (hdepth : 1 ≤ c.cfg.rxDepth.toNat)
    (henabled : s.glob.userDataEn = true) (hoff : udOff s.params c.cfg ≤ c.cfg.rxLen.toNat) :
    ∃ x y, exec (.rxind ch) s = .next x ∧ exec (.getud ch) x = .next y
      ∧ y.rsp = some ⟨.ok, 0, s.operands.din.drop (udOff s.params c.cfg), []⟩ := by
  obtain ⟨c', evs, hrxind, hinit, hcfg, hnewest⟩ := exists_exec_rxind haddr hlen hdepth
  have hgetud := hnewest.exec_getud (addressed_responded haddr hinit .ok evs) henabled (by rw [hcfg]; exact hoff)
  rw [hcfg] at hgetud
  exact ⟨_, _, hrxind, hgetud, rfl⟩

/-- Settles O29: the frame on the way out is, with equal lengths, a frame on the way in, and its user data are `d`. -/
theorem userDataRoundTrip : Obligations.UserDataRoundTrip := by
  intro s t u ch c d f haddr hlegal hsame henabled hown hset htrig hrsp
  obtain ⟨hdepth, hoffTx, hoffRx⟩ := bounds_of_legalChan hlegal
  obtain ⟨hlen, hdrop, hparams, hglob, c', haddr', hcfg⟩ :=
    exec_setud_then_trigtx (s := { s with operands := { s.operands with din := d } }) haddr henabled hown hoffTx
      hset htrig hrsp
  rw [← hcfg] at hlen hsame hdepth hoffRx hdrop
  obtain ⟨x, y, hrxind, hgetud, hy⟩ :=
    exec_rxind_then_getud (s := { u with operands := { u.operands with din := f } }) haddr'
      (hlen.trans (congrArg BitVec.toNat hsame.symm)) hdepth (hglob ▸ henabled) (hparams ▸ hoffRx)
  refine ⟨x, y, hrxind, hgetud, hy.trans ?_⟩
  dsimp only at hdrop ⊢
  rw [hparams, hdrop]

end Sys2Proof.Proofs.Data
end

section
/-! PROOFS, family 45_tick: R200, R104, R204. The order of a TICK is the order of R7 rearranged, and counting timers down
does not depend on the order; so a TICK with nothing due takes one period off each running timer. -/

namespace Sys2Proof.Proofs.Tick

open Sys2Proof Sys2Proof.Machine

/-! ### The order of a TICK -/

theorem mem_tickOrder (T : TimerSel) : T ∈ Config.tickOrder := by cases T <;> decide

/-- R200: a sensible order visits each timer exactly once. -/
theorem tickOrder_perm {p : Params} (h : p.wf = true) : p.tickOrder.Perm Config.tickOrder := by
  simp only [Params.wf, Bool.and_eq_true, decide_eq_true_eq] at h
  obtain ⟨⟨-, hnodup⟩, hlength⟩ := h
  exact (hnodup.subperm fun T _ => mem_tickOrder T).perm_of_length_le (Nat.le_of_eq hlength.symm)

/-- TICK on an initialised block is the ticks of its channels. -/
theorem exec_tick_of_ticked {s : State} {r : List Channel × List Event} (hinit : ∀ c ∈ s.chans, c.state ≠ .uninit)
    (hticked : tickChannels s.params s.glob 0 s.chans [] s.operands.back = .next r) :
    exec .tick s = .next { s with chans := r.1, rsp := some ⟨.ok, 0, [], r.2⟩ } := by
  have hinitialised : initialised s = true := List.all_eq_true.mpr fun c hc => decide_eq_true (hinit c hc)
  rw [exec, execTick, if_pos hinitialised, hticked, andThen_next]

/-! ### A tick of a timer that is not due -/

/-- What a tick with period `d` makes of a timer that is not due (R104). -/
def countedDown (d : Dur) (t : Timer) : Timer := if t.run then ⟨true, t.cnt - d⟩ else t

/-- A timer that does not expire on a tick with period `d`: it is stopped, or its countdown is longer. -/
def Undue (d : Dur) (t : Timer) : Prop := t.run = true → d.toNat < t.cnt.toNat

/-- The channel with timer `T` counted down. -/
def countTimer (d : Dur) (c : Channel) (T : TimerSel) : Channel := setTimer c T (countedDown d (getTimer c T))

theorem setTimer_getTimer (c : Channel) (T : TimerSel) : setTimer c T (getTimer c T) = c := by cases T <;> rfl

theorem getTimer_countTimer_of_ne {d : Dur} {c : Channel} {T U : TimerSel} (h : U ≠ T) :
    getTimer (countTimer d c T) U = getTimer c U := by
  rw [countTimer, getTimer_setTimer, if_neg h]

theorem countTimer_right_comm (d : Dur) (c : Channel) (T U : TimerSel) :
    countTimer d (countTimer d c T) U = countTimer d (countTimer d c U) T := by
  cases T <;> cases U <;> rfl

/-- A tick of a timer that is not due counts it down if it runs, and runs no handler. -/
theorem tTick_of_undue {expire : TimerSel → Work → Out Work} {T : TimerSel} {d : Dur} {w : Work}
    (h : Undue d (getTimer w.chan T)) : tTick expire T d w = .next (withChan w (countTimer d w.chan T)) := by
  rcases tTick_cases expire T d w with ⟨hstopped, htick⟩ | ⟨hrun, -, htick⟩ | ⟨hrun, hdue, -⟩
  · have hkept : countTimer d w.chan T = w.chan := by
      rw [countTimer, countedDown, if_neg (by simp [hstopped]), setTimer_getTimer]
    rw [htick, hkept]
    rfl
  · rw [htick, countTimer, countedDown, if_pos hrun]
  · exact absurd (BitVec.le_def.mp hdue) (h hrun).not_ge

/-! ### A channel and a block with nothing due -/

/-- Ticks of different timers of which none is due count each of them down. -/
theorem tickTimers_of_undue {e : Env} {Ts : List TimerSel} {w : Work} (hnodup : Ts.Nodup)
    (h : ∀ T ∈ Ts, Undue e.glob.tickPeriod (getTimer w.chan T)) :
    tickTimers e Ts w = .next (withChan w (Ts.foldl (countTimer e.glob.tickPeriod) w.chan)) := by
  induction Ts generalizing w with
  | nil => rfl
  | cons T Ts ih =>
    obtain ⟨hnotin, hnodup⟩ := List.nodup_cons.mp hnodup
    have hrest : ∀ U ∈ Ts, Undue e.glob.tickPeriod (getTimer (countTimer e.glob.tickPeriod w.chan T) U) := by
      intro U hU
      rw [getTimer_countTimer_of_ne (ne_of_mem_of_not_mem hU hnotin)]
      exact h U (List.mem_cons_of_mem T hU)
    rw [tickTimers, tTick_of_undue (h T List.mem_cons_self), andThen_next, ih hnodup hrest]
    rfl

/-- The channel with every timer counted down. -/
def countChannel (d : Dur) (c : Channel) : Channel :=
  { c with tm := ⟨countedDown d c.tm.timeout, countedDown d c.tm.msgCycle, countedDown d c.tm.repeatMsg,
      countedDown d c.tm.waitBusSleep, countedDown d c.tm.remoteSleep⟩ }

/-- Counting down in any order that visits each timer once counts every timer down. -/
theorem foldl_countTimer {p : Params} (hp : p.wf = true) (d : Dur) (c : Channel) :
    p.tickOrder.foldl (countTimer d) c = countChannel d c :=
  calc p.tickOrder.foldl (countTimer d) c
      = Config.tickOrder.foldl (countTimer d) c :=
        (tickOrder_perm hp).foldl_eq' (fun T _ U _ c => countTimer_right_comm d c T U) c
    _ = countChannel d c := by simp only [Config.tickOrder, List.foldl, countTimer, setTimer, getTimer, countChannel]

/-- A TICK of channels with nothing due counts every channel's timers down and emits nothing. -/
theorem tickChannels_of_undue {p : Params} {g : GlobCfg} (hp : p.wf = true) {cs : List Channel}
    (h : ∀ c ∈ cs, ∀ T, Undue g.tickPeriod (getTimer c T)) (k : Nat) (evs : List Event) (back : List Bool) :
    tickChannels p g k cs evs back = .next (cs.map (countChannel g.tickPeriod), evs) := by
  have hnodup : p.tickOrder.Nodup := (tickOrder_perm hp).nodup_iff.mpr (by decide)
  induction cs generalizing k with
  | nil => rfl
  | cons c cs ih =>
    have hc := tickTimers_of_undue (e := ⟨p, g, BitVec.ofNat 8 k⟩) (w := ⟨c, evs, back⟩) hnodup
      fun T _ => h c List.mem_cons_self T
    rw [foldl_countTimer hp] at hc
    have hcs := ih (fun c hc => h c (List.mem_cons_of_mem _ hc)) (k + 1)
    exact tickChannels_cons.mpr ⟨_, _, hc, hcs, rfl⟩

/-- Settles O42: channel by channel nothing expires, so the order of the visits does not matter. -/
theorem tickWithNothingDueOnlyCountsDown : Obligations.TickWithNothingDueOnlyCountsDown := by
  intro s hp hinit hundue down
  exact exec_tick_of_ticked hinit (tickChannels_of_undue hp hundue 0 [] s.operands.back)

end Sys2Proof.Proofs.Tick
end

section
/-! PROOFS, family 45_tick: R200, R216, R260. A tick of a channel whose outgoing frame is complete goes on while a bus answer
is left for the message-cycle timer, the only one whose expiry transmits; each TICK visits it once a channel. -/

namespace Sys2Proof.Proofs.Tick

open Sys2Proof Sys2Proof.Machine Sys2Proof.Proofs.State

/-! ### Outcomes that go on -/

/-- The operation neither faults nor is refused. -/
def GoesOn {α : Type} (o : Out α) : Prop := ∃ a, o = .next a

theorem GoesOn.next {α : Type} (a : α) : GoesOn (.next a) := ⟨a, rfl⟩

theorem GoesOn.ite {α : Type} {P : Prop} [Decidable P] {o o' : Out α} (h : GoesOn o) (h' : GoesOn o') :
    GoesOn (if P then o else o') := by
  split
  · exact h
  · exact h'

theorem GoesOn.andThen {α β : Type} {o : Out α} {f : α → Out β} (h : GoesOn o) (hf : ∀ a, GoesOn (f a)) :
    GoesOn (andThen o f) := by
  obtain ⟨a, rfl⟩ := h
  exact hf a

/-! ### A complete outgoing frame -/

/-- Every byte of the outgoing frame has a value, and the control-bit-vector byte, where present, is one of them. -/
structure FrameComplete (p : Params) (c : Channel) : Prop where
  readable : TxReadable c
  cbvInside : present p c.cfg.cbvPos = true → c.cfg.cbvPos.toNat < c.cfg.txLen.toNat

/-- R36(c), R36(d): a ready channel's frame is complete. -/
theorem FrameComplete.of_ready {p : Params} {c : Channel} (h : ReadyChannel p c) : FrameComplete p c := by
  obtain ⟨hlegal, hreadable, -⟩ := h
  obtain ⟨-, hcbv, -⟩ := positions_of_legalChan hlegal
  obtain ⟨-, hoff, -⟩ := Data.bounds_of_legalChan hlegal
  exact ⟨hreadable, fun hpresent => by
    have hpos := toNat_lt_of_legalPos hcbv (by simpa [present] using hpresent)
    omega⟩

theorem FrameComplete.goesOn_cbvClr {p : Params} {c : Channel} (h : FrameComplete p c) (b : Fin 8) :
    GoesOn (cbvClr p b c) := by
  have hcbv : CbvReadable p c ((readCell c.tx (txAddr c.cfg.cbvPos.toNat)).getD 0) := fun hpresent => by
    have hinside := h.cbvInside hpresent
    obtain ⟨v, hv⟩ := Option.isSome_iff_exists.mp (h.readable _ hinside)
    exact ⟨hinside, by rw [hv]; rfl⟩
  obtain ⟨tx', hclr, -⟩ := Cbv.cbvClr_of_readable (b := b) hcbv
  exact ⟨_, hclr⟩

theorem FrameComplete.goesOn_cbvClrAll {p : Params} {c : Channel} (h : FrameComplete p c) : GoesOn (cbvClrAll p c) := by
  obtain ⟨tx', hclr, -⟩ := cbvClrAll_of_inRange h.cbvInside
  exact ⟨_, hclr⟩

/-- A write takes no byte's value away. -/
theorem isSome_readCell_writeCell {m : Memory} {b : Nat} (h : (readCell m b).isSome = true) (a : Nat) (v : Byte) :
    (readCell (writeCell m a v) b).isSome = true := by
  rw [readCell_writeCell]
  split
  · rfl
  · exact h

/-- The framer takes no byte's value away. -/
theorem isSome_readCell_of_cbvModify {p : Params} {f : Byte → Byte} {c c' : Channel} {a : Nat}
    (ha : (readCell c.tx a).isSome = true) (h : cbvModify p f c = .next c') : (readCell c'.tx a).isSome = true := by
  rcases cbvModify_eq_next.mp h with ⟨-, rfl⟩ | ⟨-, -, v, -, rfl⟩
  · exact ha
  · exact isSome_readCell_writeCell ha _ _

theorem isSome_readCell_of_cbvClrAll {p : Params} {c c' : Channel} {a : Nat} (ha : (readCell c.tx a).isSome = true)
    (h : cbvClrAll p c = .next c') : (readCell c'.tx a).isSome = true := by
  rcases cbvClrAll_eq_next.mp h with ⟨-, rfl⟩ | ⟨-, -, rfl⟩
  · exact ha
  · exact isSome_readCell_writeCell ha _ _

/-- A tick of one timer keeps every byte of TX that has a value. -/
theorem isSome_readCell_of_tickFrame {p : Params} {g : GlobCfg} {c c' : Channel} (h : TickFrame p g c c') {a : Nat}
    (ha : (readCell c.tx a).isSome = true) : (readCell c'.tx a).isSome = true := by
  rcases h.tx with htx | hclr | hclr
  · rwa [htx]
  · exact isSome_readCell_of_cbvModify (c' := { c with tx := c'.tx }) ha hclr
  · exact isSome_readCell_of_cbvClrAll (c' := { c with tx := c'.tx }) ha hclr

theorem FrameComplete.of_tickFrame {p : Params} {g : GlobCfg} {c c' : Channel} (hc : FrameComplete p c)
    (h : TickFrame p g c c') : FrameComplete p c' where
  readable k hk := isSome_readCell_of_tickFrame h (hc.readable k (h.cfg ▸ hk))
  cbvInside := h.cfg ▸ hc.cbvInside

/-! ### The bus answers a tick needs -/

/-- How many bus answers the expiry of a timer may need: its handler transmits at most that often (R221). -/
def answersFor : TimerSel → Nat
  | .msgCycle => 1
  | .timeout | .repeatMsg | .waitBusSleep | .remoteSleep => 0

/-- R200: one TICK of a channel needs at most one bus answer. -/
theorem sum_answersFor {p : Params} (h : p.wf = true) : (p.tickOrder.map answersFor).sum = 1 :=
  ((tickOrder_perm h).map answersFor).sum_eq

theorem goesOn_busTx {e : Env} {w : Work} (hframe : TxReadable w.chan) (hback : 1 ≤ w.back.length) :
    GoesOn (busTx e w) := by
  obtain ⟨f, hf⟩ := readTxFrame_of_readable hframe
  obtain ⟨ok, rest, hback⟩ := List.exists_cons_of_length_pos hback
  exact ⟨(_, ok), busTx_eq_next.mpr ⟨f, rest, hf, hback, rfl⟩⟩

/-- Every handler goes on from a complete frame, with an answer left where it may transmit (R216). -/
theorem goesOn_expire {e : Env} {T : TimerSel} {w : Work} (hframe : FrameComplete e.params w.chan)
    (hback : answersFor T ≤ w.back.length) : GoesOn (expire e T w) := by
  cases T with
  | timeout =>
    have hsleep : GoesOn (trRsPbs e w) :=
      have hentered : FrameComplete e.params { w.chan with mode := .prepareBusSleep, state := .prepareBusSleep } :=
        ⟨hframe.readable, hframe.cbvInside⟩
      .andThen (.ite (hentered.goesOn_cbvClr _) (.next _)) fun _ => .next _
    cases hs : w.chan.state <;> simp only [expire, expireTimeout, hs]
    case readySleep => exact hsleep
    all_goals exact .next _
  | msgCycle => exact .ite (.andThen (goesOn_busTx hframe.readable hback) fun _ => .next _) (.next _)
  | repeatMsg =>
    have hno : FrameComplete e.params { w.chan with state := .normalOperation, blrActive := w.chan.cfg.blrEn } :=
      ⟨hframe.readable, hframe.cbvInside⟩
    have hrs : FrameComplete e.params { w.chan with state := .readySleep, txEnabled := false } :=
      ⟨hframe.readable, hframe.cbvInside⟩
    have hexit : GoesOn (if w.chan.requested then trRmNo e w else trRmRs e w) :=
      .ite (.andThen hno.goesOn_cbvClrAll fun _ => .next _)
        (.andThen (.ite hrs.goesOn_cbvClrAll (.next _)) fun _ => .next _)
    exact .ite hexit (.next _)
  | waitBusSleep => exact .ite (.next _) (.next _)
  | remoteSleep => exact .ite (.next _) (.next _)

theorem goesOn_tTick {e : Env} {T : TimerSel} {w : Work} (hframe : FrameComplete e.params w.chan)
    (hback : answersFor T ≤ w.back.length) : GoesOn (tTick (expire e) T e.glob.tickPeriod w) := by
  rcases tTick_cases (expire e) T e.glob.tickPeriod w with ⟨-, htick⟩ | ⟨-, -, htick⟩ | ⟨-, -, htick⟩ <;> rw [htick]
  · exact .next _
  · exact .next _
  · exact goesOn_expire ⟨hframe.readable, hframe.cbvInside⟩ hback

/-! ### The bus answers a tick consumes -/

/-- From `w` to `w'` at most `n` transmit requests are made and at most `n` bus answers consumed. -/
structure Spends (n : Nat) (w w' : Work) : Prop where
  requests : requests w' ≤ requests w + n
  answers : w.back.length ≤ w'.back.length + n

theorem Spends.of_eq {n : Nat} {w w' : Work} (hrequests : State.requests w' = State.requests w)
    (hback : w'.back = w.back) : Spends n w w' :=
  ⟨hrequests ▸ Nat.le_add_right .., hback ▸ Nat.le_add_right ..⟩

theorem Spends.trans {m n : Nat} {w w' w'' : Work} (h : Spends m w w') (h' : Spends n w' w'') :
    Spends (m + n) w w'' := by
  obtain ⟨hrequests, hanswers⟩ := h
  obtain ⟨hrequests', hanswers'⟩ := h'
  constructor <;> omega

/-- Only the message-cycle handler transmits, once, and it consumes the answer it gets. -/
theorem expire_spends {e : Env} {T : TimerSel} {w w' : Work} (h : expire e T w = .next w') :
    Spends (answersFor T) w w' := by
  cases T with
  | timeout =>
    rcases expireTimeout_eq_next h with ⟨-, rfl⟩ | ⟨-, h⟩ | ⟨-, -, -, rfl⟩
    · exact .of_eq (by rw [requests_txTimeoutNote, requests_rearmTimeout]) (by rw [txTimeoutNote_back]; rfl)
    · obtain ⟨tx', -, hw⟩ := trRsPbs_eq_next h
      exact .of_eq (requests_trRsPbs h) (by rw [hw])
    · exact .of_eq rfl rfl
  | msgCycle =>
    rcases expireMsgCycle_eq_next h with ⟨-, f, ok, rest, -, hback, rfl⟩ | ⟨-, rfl⟩
    · exact ⟨Nat.le_of_eq (txCount_append w.events [.txReq e.idx f]), by rw [hback]; exact Nat.le_refl _⟩
    · exact .of_eq rfl rfl
  | repeatMsg =>
    rcases expireRepeatMsg_eq_next h with ⟨-, -, h⟩ | ⟨-, -, h⟩ | ⟨-, rfl⟩
    · obtain ⟨tx', -, hw⟩ := trRmNo_eq_next h
      exact .of_eq (requests_trRmNo h) (by rw [hw])
    · obtain ⟨tx', -, hw⟩ := trRmRs_eq_next h
      exact .of_eq (requests_trRmRs h) (by rw [hw])
    · exact .of_eq rfl rfl
  | waitBusSleep =>
    rcases expireWaitBusSleep_eq_next h with ⟨-, rfl⟩ | ⟨-, rfl⟩
    · exact .of_eq (requests_trPbsBs e w) (sc_back ..)
    · exact .of_eq rfl rfl
  | remoteSleep =>
    rcases expireRemoteSleep_eq_next h with ⟨-, rfl⟩ | ⟨-, rfl⟩
    · exact .of_eq (requests_emit (ev := .rsiInd e.idx) rfl w) rfl
    · exact .of_eq rfl rfl

theorem tTick_spends {e : Env} {T : TimerSel} {d : Dur} {w w' : Work} (h : tTick (expire e) T d w = .next w') :
    Spends (answersFor T) w w' := by
  rcases tTick_cases (expire e) T d w with ⟨-, htick⟩ | ⟨-, -, htick⟩ | ⟨-, -, htick⟩ <;> rw [htick] at h
  · cases h; exact .of_eq rfl rfl
  · cases h; exact .of_eq rfl rfl
  · obtain ⟨hrequests, hanswers⟩ := expire_spends h
    exact ⟨hrequests, hanswers⟩

/-! ### A channel and a block -/

/-- The ticks of a channel with a complete frame go on while the answers last, and keep its configuration. -/
theorem exists_tickTimers {e : Env} {Ts : List TimerSel} {w : Work} (hframe : FrameComplete e.params w.chan)
    (hback : (Ts.map answersFor).sum ≤ w.back.length) :
    ∃ w', tickTimers e Ts w = .next w' ∧ w'.chan.cfg = w.chan.cfg ∧ Spends (Ts.map answersFor).sum w w' := by
  induction Ts generalizing w with
  | nil => exact ⟨w, rfl, rfl, .of_eq rfl rfl⟩
  | cons T Ts ih =>
    rw [List.map_cons, List.sum_cons] at hback ⊢
    obtain ⟨w₁, htick⟩ := goesOn_tTick hframe (Nat.le_of_add_right_le hback)
    have frame := tick_frame e T w w₁ htick
    have hspent := tTick_spends htick
    obtain ⟨w', hticks, hcfg, hrest⟩ := ih (hframe.of_tickFrame frame) (by have := hspent.answers; omega)
    exact ⟨w', by rw [tickTimers, htick, andThen_next, hticks], hcfg.trans frame.cfg, hspent.trans hrest⟩

/-- A TICK of channels with complete frames goes on with one answer a channel, makes at most one transmit request a channel
and keeps every configuration. -/
theorem exists_tickChannels {p : Params} {g : GlobCfg} (hp : p.wf = true) {cs : List Channel} {k : Nat}
    {evs : List Event} {back : List Bool} (hframe : ∀ c ∈ cs, FrameComplete p c) (hback : cs.length ≤ back.length) :
    ∃ r, tickChannels p g k cs evs back = .next r ∧ r.1.map (·.cfg) = cs.map (·.cfg)
      ∧ txCount r.2 ≤ txCount evs + cs.length := by
  induction cs generalizing k evs back with
  | nil => exact ⟨_, rfl, rfl, Nat.le_refl _⟩
  | cons c cs ih =>
    rw [List.length_cons] at hback
    obtain ⟨w, hticks, hcfg, hspent⟩ :=
      exists_tickTimers (e := ⟨p, g, BitVec.ofNat 8 k⟩) (Ts := p.tickOrder) (w := ⟨c, evs, back⟩)
        (hframe c List.mem_cons_self) (by rw [sum_answersFor hp]; exact Nat.le_of_add_left_le hback)
    rw [sum_answersFor hp] at hspent
    have hrequests : txCount w.events ≤ txCount evs + 1 := hspent.requests
    have hanswers : back.length ≤ w.back.length + 1 := hspent.answers
    obtain ⟨r, hr, hcfgs, hcount⟩ :=
      ih (k := k + 1) (evs := w.events) (back := w.back) (fun c hc => hframe c (List.mem_cons_of_mem _ hc)) (by omega)
    refine ⟨_, tickChannels_cons.mpr ⟨w, r, hticks, hr, rfl⟩, by simp [hcfg, hcfgs], ?_⟩
    rw [List.length_cons]
    dsimp only
    omega

/-- Settles O43: a ready channel's frame is complete, and one answer a channel is what one TICK can need. -/
theorem tickCompletesOnReadyChannels : Obligations.TickCompletesOnReadyChannels := by
  intro s hp hinit hready hback
  obtain ⟨r, hticked, hcfgs, hcount⟩ :=
    exists_tickChannels (g := s.glob) (k := 0) (evs := []) hp (fun c hc => FrameComplete.of_ready (hready c hc)) hback
  exact ⟨r.1, r.2, exec_tick_of_ticked hinit hticked, hcfgs, hcount.trans (Nat.le_of_eq (Nat.zero_add _))⟩

end Sys2Proof.Proofs.Tick
end

section
/-! PROOFS, family 45_tick: R203. With the order of R7 the timeout handler meets a channel still in Repeat-Message and
re-arms; the handlers after it leave the timeout timer and, outside Prepare-Bus-Sleep, the mode. -/

namespace Sys2Proof.Proofs.Tick

open Sys2Proof Sys2Proof.Machine Sys2Proof.Proofs.Transitions

/-! ### A timer that is due -/

/-- A tick of a running timer whose countdown is at most the period runs the handler (R104). -/
theorem tTick_of_due {expire : TimerSel → Work → Out Work} {T : TimerSel} {d : Dur} {w : Work}
    (hrun : (getTimer w.chan T).run = true) (hdue : (getTimer w.chan T).cnt.toNat ≤ d.toNat) :
    tTick expire T d w = expire T (withChan w (expiryEntry w.chan T)) := by
  rw [tTick, if_pos hrun, if_pos (BitVec.le_def.mpr hdue)]

/-- The timeout timer due in Repeat-Message is re-armed, and nothing else of the record changes (R220). -/
theorem tTick_timeout_of_repeatMessage {e : Env} {w w' : Work} (hs : w.chan.state = .repeatMessage)
    (hrun : w.chan.tm.timeout.run = true) (hdue : w.chan.tm.timeout.cnt.toNat ≤ e.glob.tickPeriod.toNat)
    (h : tTick (expire e) .timeout e.glob.tickPeriod w = .next w') :
    w'.chan = tStart w.chan .timeout w.chan.cfg.tTimeout := by
  rw [tTick_of_due (T := .timeout) hrun hdue] at h
  have hs' : (withChan w (expiryEntry w.chan .timeout)).chan.state = .repeatMessage := hs
  rcases expireTimeout_eq_next h with ⟨-, rfl⟩ | ⟨hrs, -⟩ | ⟨hrm, -, -, -⟩
  · rw [txTimeoutNote_chan]; rfl
  · cases hs'.symm.trans hrs
  · exact absurd hs' hrm

/-- The repeat-message timer due in Repeat-Message leaves it by `requested` (R222). -/
theorem tTick_repeatMsg_state {e : Env} {w w' : Work} (hs : w.chan.state = .repeatMessage)
    (hrun : w.chan.tm.repeatMsg.run = true) (hdue : w.chan.tm.repeatMsg.cnt.toNat ≤ e.glob.tickPeriod.toNat)
    (h : tTick (expire e) .repeatMsg e.glob.tickPeriod w = .next w') :
    w'.chan.state = if w.chan.requested then .normalOperation else .readySleep := by
  rw [tTick_of_due (T := .repeatMsg) hrun hdue] at h
  have hrequested : (withChan w (expiryEntry w.chan .repeatMsg)).chan.requested = w.chan.requested := rfl
  rcases expireRepeatMsg_eq_next h with ⟨-, hreq, h⟩ | ⟨-, hreq, h⟩ | ⟨hrm, -⟩
  · obtain ⟨tx', -, rfl⟩ := trRmNo_eq_next h
    rw [← hrequested, hreq]; rfl
  · obtain ⟨tx', -, rfl⟩ := trRmRs_eq_next h
    rw [← hrequested, hreq]; rfl
  · exact absurd hs hrm

/-! ### What the ticks after the timeout timer's leave -/

/-- The ticks of the other timers leave these of the record while it is not in Prepare-Bus-Sleep. -/
structure StaysArmed (c c' : Channel) : Prop where
  mode : c'.mode = c.mode
  requested : c'.requested = c.requested
  timeout : c'.tm.timeout = c.tm.timeout

theorem StaysArmed.trans {c c' c'' : Channel} (h : StaysArmed c c') (h' : StaysArmed c' c'') : StaysArmed c c'' :=
  ⟨h'.mode.trans h.mode, h'.requested.trans h.requested, h'.timeout.trans h.timeout⟩

/-- Only the timeout handler writes the timeout timer, and no other handler leaves Network mode. -/
theorem expire_staysArmed {e : Env} {T : TimerSel} {w w' : Work} (hT : T ≠ .timeout)
    (hs : w.chan.state ≠ .prepareBusSleep) (h : expire e T w = .next w') : StaysArmed w.chan w'.chan := by
  cases T with
  | timeout => exact absurd rfl hT
  | msgCycle =>
    rcases expireMsgCycle_eq_next h with ⟨-, f, ok, rest, -, -, rfl⟩ | ⟨-, rfl⟩
    · obtain ⟨mc, ic, hform⟩ := afterCycleTx_form ok w.chan
      dsimp only
      rw [hform]
      exact ⟨rfl, rfl, rfl⟩
    · exact ⟨rfl, rfl, rfl⟩
  | repeatMsg =>
    rcases expireRepeatMsg_eq_next h with ⟨-, -, h⟩ | ⟨-, -, h⟩ | ⟨-, rfl⟩
    · obtain ⟨tx', -, rfl⟩ := trRmNo_eq_next h
      exact ⟨rfl, rfl, by dsimp only; split <;> rfl⟩
    · obtain ⟨tx', -, rfl⟩ := trRmRs_eq_next h
      exact ⟨rfl, rfl, rfl⟩
    · exact ⟨rfl, rfl, rfl⟩
  | waitBusSleep =>
    rcases expireWaitBusSleep_eq_next h with ⟨hpbs, -⟩ | ⟨-, rfl⟩
    · exact absurd hpbs hs
    · exact ⟨rfl, rfl, rfl⟩
  | remoteSleep =>
    rcases expireRemoteSleep_eq_next h with ⟨-, rfl⟩ | ⟨-, rfl⟩ <;> exact ⟨rfl, rfl, rfl⟩

/-- Writing another timer leaves the timeout timer. -/
theorem setTimer_staysArmed {T : TimerSel} (hT : T ≠ .timeout) (c : Channel) (t : Timer) :
    StaysArmed c (setTimer c T t) :=
  ⟨rfl, rfl, (getTimer_setTimer c T .timeout t).trans (if_neg hT.symm)⟩

theorem tTick_staysArmed {e : Env} {T : TimerSel} {d : Dur} {w w' : Work} (hT : T ≠ .timeout)
    (hs : w.chan.state ≠ .prepareBusSleep) (h : tTick (expire e) T d w = .next w') : StaysArmed w.chan w'.chan := by
  rcases tTick_cases (expire e) T d w with ⟨-, htick⟩ | ⟨-, -, htick⟩ | ⟨-, -, htick⟩ <;> rw [htick] at h
  · cases h; exact ⟨rfl, rfl, rfl⟩
  · cases h; exact setTimer_staysArmed hT w.chan _
  · exact (setTimer_staysArmed hT w.chan _).trans
      (expire_staysArmed (w := withChan w (expiryEntry w.chan T)) hT hs h)

/-- The message-cycle handler writes its own timer only, so its tick leaves the repeat-message timer. -/
theorem tTick_msgCycle_repeatMsg {e : Env} {d : Dur} {w w' : Work} (h : tTick (expire e) .msgCycle d w = .next w') :
    w'.chan.tm.repeatMsg = w.chan.tm.repeatMsg := by
  rcases tTick_cases (expire e) .msgCycle d w with ⟨-, htick⟩ | ⟨-, -, htick⟩ | ⟨-, -, htick⟩ <;> rw [htick] at h
  · cases h; rfl
  · cases h; rfl
  · rcases expireMsgCycle_eq_next h with ⟨-, f, ok, rest, -, -, rfl⟩ | ⟨-, rfl⟩
    · obtain ⟨mc, ic, hform⟩ := afterCycleTx_form ok (withChan w (expiryEntry w.chan .msgCycle)).chan
      dsimp only
      rw [hform]
      rfl
    · rfl

/-- Settles O44: after the timeout timer's tick the state is still Repeat-Message, after the repeat-message timer's it is the
one `requested` chooses, and the other ticks move it no further. -/
theorem doubleExpiryInRepeatMessageStaysAwake : Obligations.DoubleExpiryInRepeatMessageStaysAwake := by
  intro e w w' horder hs htimeoutRun htimeoutDue hrepeatRun hrepeatDue h
  rw [horder] at h
  obtain ⟨w₁, htimeout, h⟩ := andThen_eq_next.mp h
  obtain ⟨w₂, hmsgCycle, h⟩ := andThen_eq_next.mp h
  obtain ⟨w₃, hrepeatMsg, h⟩ := andThen_eq_next.mp h
  obtain ⟨w₄, hwaitBusSleep, h⟩ := andThen_eq_next.mp h
  obtain ⟨w₅, hremoteSleep, h⟩ := andThen_eq_next.mp h
  cases h
  have hrearmed : w₁.chan = tStart w.chan .timeout w.chan.cfg.tTimeout :=
    tTick_timeout_of_repeatMessage hs htimeoutRun htimeoutDue htimeout
  have hs₁ : w₁.chan.state = .repeatMessage := by rw [hrearmed]; exact hs
  have hs₂ : w₂.chan.state = .repeatMessage := ((tTick_moves hmsgCycle).resolve_right nofun).trans hs₁
  have htimer : w₂.chan.tm.repeatMsg = w.chan.tm.repeatMsg := by
    rw [tTick_msgCycle_repeatMsg hmsgCycle, hrearmed]; rfl
  have harmed₂ : StaysArmed w₁.chan w₂.chan := tTick_staysArmed (by decide) (by rw [hs₁]; nofun) hmsgCycle
  have harmed₃ : StaysArmed w₂.chan w₃.chan := tTick_staysArmed (by decide) (by rw [hs₂]; nofun) hrepeatMsg
  have hs₃ : w₃.chan.state = if w.chan.requested then .normalOperation else .readySleep := by
    rw [tTick_repeatMsg_state hs₂ (htimer ▸ hrepeatRun) (htimer ▸ hrepeatDue) hrepeatMsg, harmed₂.requested, hrearmed]
    rfl
  have hawake₃ : w₃.chan.state ≠ .prepareBusSleep := by rw [hs₃]; split <;> nofun
  have hs₄ : w₄.chan.state = w₃.chan.state := (tTick_moves hwaitBusSleep).resolve_right fun hmove => hawake₃ hmove.left
  have hs₅ : w'.chan.state = w₄.chan.state := (tTick_moves hremoteSleep).resolve_right nofun
  have harmed₄ : StaysArmed w₃.chan w₄.chan := tTick_staysArmed (by decide) hawake₃ hwaitBusSleep
  have harmed₅ : StaysArmed w₄.chan w'.chan := tTick_staysArmed (by decide) (hs₄ ▸ hawake₃) hremoteSleep
  have harmed : StaysArmed w₁.chan w'.chan := harmed₂.trans (harmed₃.trans (harmed₄.trans harmed₅))
  rw [hs₅, hs₄, harmed.mode, harmed.timeout, hrearmed]
  exact ⟨hs₃, rfl, rfl⟩

end Sys2Proof.Proofs.Tick
end

section
/-! PROOFS, family 60_exceptions: R210 to R212. A command on a channel ends in one of three ways: refused by a cause of R212
with nothing changed, with OK, or, BUSSYNC alone, with the bus failure after its transmit request. -/

namespace Sys2Proof.Proofs.Exceptions

open Sys2Proof Sys2Proof.Machine Sys2Proof.Proofs.Control

/-! ### Uninit -/

/-- R210: every command on a channel but GETST is refused in Uninit before its own rule runs. -/
theorem commandRule_of_uninit {o : Operands} {i : Instr} {ch : ChIdx} {e : Env} {w : Work} (hi : i.channel? = some ch)
    (hgetst : i ≠ .getst ch) (hu : w.chan.state = .uninit) : commandRule o i e w = endWith .ePrecond w := by
  cases i with
  | init | deinit | tick => cases hi
  | getst => cases hi; exact absurd rfl hgetst
  | _ => exact if_pos hu

/-- R210: TICK needs every channel initialised. -/
theorem exec_tick_of_uninit {s : State} (h : ∃ c ∈ s.chans, c.state = .uninit) :
    exec .tick s = .next (replied s .ePrecond 0 []) := by
  have hinit : ¬ initialised s = true := by simpa [initialised] using h
  exact if_neg hinit

/-- DEINIT needs every channel in Bus-Sleep (R151). -/
theorem exec_deinit_of_awake {s : State} (h : ∃ c ∈ s.chans, c.state ≠ .busSleep) :
    exec .deinit s = .next (replied s .ePrecond 0 []) := by
  obtain ⟨-, hrefused⟩ := deinitIsAllOrNothing s
  exact hrefused h

/-- Settles O8: the check for Uninit, which GETST alone goes without, and the conditions of the three commands without a
channel. -/
theorem uninitRefusesAllButGetstAndInit : Obligations.UninitRefusesAllButGetstAndInit := by
  refine ⟨fun s i ch c hi hgetst hc hu => ?channel, fun s ch c hc hu => ?getst,
    fun s ⟨c, hc, hu⟩ => ⟨exec_tick_of_uninit ⟨c, hc, hu⟩, exec_deinit_of_awake ⟨c, hc, by rw [hu]; nofun⟩⟩,
    fun s hlen hlegal => ⟨_, execInit_of_legal hlen hlegal, rfl⟩⟩
  case channel =>
    rw [exec_of_channel hi, onAnyChannel_some hc, commandRule_of_uninit hi hgetst hu, endWith, andThen_next,
      commit_startWork hc]
  case getst =>
    obtain ⟨hval, -⟩ := flagAndStateReadersAnswerTheirValue s ch c hc
    rw [hval, hu]
    rfl

/-! ### How a rule can end -/

/-- How a command `i` that is not refused ends: with OK, or, for BUSSYNC alone, with the bus failure, whose one effect is
the transmit request made (R211, R213). -/
inductive Completed (i : Instr) (e : Env) (w : Work) : Answer → Prop
  | ok {a : Answer} (code : a.code = .ok) : Completed i e w a
  | busFailure {ch : ChIdx} {f : List Byte} {rest : List Bool} (command : i = .bussync ch) :
      Completed i e w ⟨⟨w.chan, w.events ++ [.txReq e.idx f], rest⟩, .eBus, 0, []⟩

/-- The outcome, if it goes on, is the end of a command that is not refused. -/
def Completes (i : Instr) (e : Env) (w : Work) (o : Out Answer) : Prop := ∀ a, o = .next a → Completed i e w a

/-- The outcome is the refusal that changes nothing when a cause of R212 holds and the stream has its length; if it goes on,
it is that refusal for a cause or the end of a command that is not refused. -/
structure RefusedFor (i : Instr) (e : Env) (w : Work) (o : Out Answer) (Fits Cause : Prop) : Prop where
  refuses : Fits → Cause → o = endWith .ePrecond w
  ends : ∀ a, o = .next a → (Cause ∧ a = ⟨w, .ePrecond, 0, []⟩) ∨ Completed i e w a

section Combinators

variable {Fits Cause Gate : Prop} {i : Instr} {e : Env} {w : Work} {o : Out Answer}

theorem Completes.next {a : Answer} (h : a.code = .ok) : Completes i e w (.next a) := by
  rintro _ ⟨⟩
  exact .ok h

theorem Completes.andThen {α : Type} {o : Out α} {k : α → Out Answer} (h : ∀ x, o = .next x → Completes i e w (k x)) :
    Completes i e w (andThen o k) := by
  intro a ha
  obtain ⟨x, hx, ha⟩ := andThen_eq_next.mp ha
  exact h x hx a ha

/-- A gate that is the cause, before a rule that has no other. -/
theorem RefusedFor.gate [Decidable Gate] (hgate : Cause ↔ Gate) (h : Completes i e w o) :
    RefusedFor i e w (if Gate then endWith .ePrecond w else o) Fits Cause where
  refuses _ hcause := if_pos (hgate.mp hcause)
  ends a ha := by
    split at ha
    · rename_i hclosed
      cases ha
      exact .inl ⟨hgate.mpr hclosed, rfl⟩
    · exact .inr (h a ha)

/-- The check for Uninit adds a cause (R210). -/
theorem RefusedFor.gated {rule : Env → Work → Out Answer} (h : RefusedFor i e w (rule e w) Fits Cause) :
    RefusedFor i e w (gated rule e w) Fits (w.chan.state = .uninit ∨ Cause) where
  refuses hfits hcause := by
    unfold Machine.gated
    split
    · rfl
    · rename_i hu
      exact h.refuses hfits (hcause.resolve_left hu)
  ends a ha := by
    unfold Machine.gated at ha
    split at ha
    · rename_i hu
      cases ha
      exact .inl ⟨.inl hu, rfl⟩
    · exact (h.ends a ha).imp_left fun ⟨hcause, heq⟩ => ⟨.inr hcause, heq⟩

theorem Completes.requireStream {din : List Byte} {n : Nat} (h : Completes i e w o) :
    Completes i e w (requireStream din n o) := by
  unfold Machine.requireStream
  split
  · exact h
  · rintro _ ⟨⟩

theorem RefusedFor.requireStream {din : List Byte} {n : Nat} (hfits : Fits → din.length = n)
    (h : RefusedFor i e w o Fits Cause) : RefusedFor i e w (requireStream din n o) Fits Cause where
  refuses hlen hcause := (requireStream_of_eq (hfits hlen) o).trans (h.refuses hlen hcause)
  ends a ha := by
    unfold Machine.requireStream at ha
    split at ha
    · exact h.ends a ha
    · cases ha

end Combinators

theorem netreqRule_completes {i : Instr} (e : Env) (w : Work) : Completes i e w (netreqRule e w) := by
  unfold netreqRule
  dsimp only
  split
  · exact .andThen fun _ _ => .next rfl
  · exact .andThen fun _ _ => .next rfl
  · exact .next rfl

/-- BUSSYNC past its gates: the code is the bus answer, and the record is left as it was (R158). -/
theorem bussync_completes (ch : ChIdx) (e : Env) (w : Work) :
    Completes (.bussync ch) e w (andThen (busTx e w) fun r => if r.2 then done r.1 else endWith .eBus r.1) := by
  refine .andThen fun r hr => ?_
  obtain ⟨f, rest, -, -, hw⟩ := busTx_eq_next.mp hr
  split
  · exact .next rfl
  · rw [hw]
    rintro _ ⟨⟩
    exact .busFailure rfl

/-! ### The table of R212 -/

/-- The causes R212 lists for a command on a channel are read off that channel's record. -/
theorem onRecord_eq {s : State} {ch : ChIdx} {c : Channel} (P : Channel → Prop) (h : s.chans[ch.toNat]? = some c) :
    OnRecord s ch P = P c := by
  simp [OnRecord, h]

/-- R212: every command on a channel is refused for the causes of the table and for no other. -/
theorem commandRule_refusedFor {s : State} {i : Instr} {ch : ChIdx} {c : Channel} (hi : i.channel? = some ch)
    (hc : s.chans[ch.toNat]? = some c) :
    RefusedFor i (envOf s ch) (startWork s c) (commandRule s.operands i (envOf s ch) (startWork s c)) (StreamFits s i)
      (PrecondCause s i) := by
  cases i <;> cases hi
  case getst => exact ⟨fun _ => False.elim, fun _ ha => .inr (Completes.next rfl _ ha)⟩
  all_goals rw [PrecondCause, onRecord_eq _ hc, commandRule]
  case netreq => exact .gate .rfl (netreqRule_completes _ _)
  case netrel => exact .gate .rfl (.next rfl)
  case txconf => exact .gate .rfl (.next rfl)
  case rxind => exact .gate .rfl (.requireStream (.andThen fun _ _ => .next rfl))
  case encom => exact .gated (.gate (or_congr_right or_comm) (.next rfl))
  case discom => exact .gated (.gate .rfl (.next rfl))
  case setud => exact .gated (.requireStream (fun hfits => hfits c hc) (.gate .rfl (.andThen fun _ _ => .next rfl)))
  case getud => exact .gated (.gate or_comm (.andThen fun _ _ => .next rfl))
  case getnid => exact .gated (.gate (or_comm.trans or_assoc) (.andThen fun _ _ => .next rfl))
  case getlnid => exact .gated (.gate .rfl (.next rfl))
  case rmreq => exact .gated (.gate or_comm (.andThen fun _ _ => .next rfl))
  case getpdu => exact .gated (.gate .rfl (.andThen fun _ _ => .next rfl))
  case bussync => exact .gated (.gate .rfl (bussync_completes _ _ _))
  case chkrsi => exact .gated (.gate or_comm (.next rfl))
  case setsrb => exact .gated (.gate .rfl (.andThen fun _ _ => .next rfl))
  case pnconf => exact .gated (.gate .rfl (.next rfl))
  case trigtx => exact .gated (.gate .rfl (.andThen fun _ _ => .next rfl))
  case pstart => exact .gated (.gate .rfl (.next rfl))

/-! ### Commands that fail, and the causes -/

/-- What a command without a channel can answer: OK, or the refusal for a cause of R212, with nothing changed. -/
theorem exec_global_answers {i : Instr} {s t : State} (hi : i.channel? = none) (h : exec i s = .next t) :
    (PrecondCause s i ∧ t = replied s .ePrecond 0 []) ∨ ∃ d evs, t.rsp = some ⟨.ok, 0, d, evs⟩ := by
  rcases channel?_eq_none hi with rfl | rfl | rfl
  · obtain ⟨-, -, rfl⟩ := execInit_eq_next h
    exact .inr ⟨_, _, rfl⟩
  · rcases execDeinit_eq_next h with ⟨-, rfl⟩ | hrefused
    · exact .inr ⟨_, _, rfl⟩
    · exact .inl hrefused
  · rcases execTick_eq_next h with ⟨-, r, -, rfl⟩ | hrefused
    · exact .inr ⟨_, _, rfl⟩
    · exact .inl hrefused

/-- What a command on a channel can answer: `E_ILLEGAL` where there is none, the refusal for a cause of R212, or the end of
its rule. -/
theorem exec_channel_answers {i : Instr} {ch : ChIdx} {s t : State} (hi : i.channel? = some ch)
    (h : exec i s = .next t) :
    (s.chans[ch.toNat]? = none ∧ t = replied s .eIllegal 0 []) ∨ (PrecondCause s i ∧ t = replied s .ePrecond 0 [])
      ∨ ∃ c a, s.chans[ch.toNat]? = some c ∧ Completed i (envOf s ch) (startWork s c) a ∧ t = commit s ch a := by
  rcases exec_channel_eq_next hi h with hnone | ⟨c, a, hc, ha, rfl⟩
  · exact .inl hnone
  · rcases (commandRule_refusedFor hi hc).ends a ha with ⟨hcause, rfl⟩ | hcompleted
    · exact .inr (.inl ⟨hcause, commit_startWork hc ..⟩)
    · exact .inr (.inr ⟨c, a, hc, hcompleted, rfl⟩)

/-- Settles O9: a refusal leaves the response alone, and the only other code is BUSSYNC's, which leaves its record. -/
theorem failedCommandsChangeNothing : Obligations.FailedCommandsChangeNothing := by
  intro i s t r h hr hfailed
  have refusal : ∀ k, t = replied s k 0 [] → k ≠ .eBus →
      t = { s with rsp := some r } ∧ (r.code ≠ .eBus → r.events = [])
        ∧ (r.code = .eBus → ∃ ch f, i = .bussync ch ∧ r.events = [.txReq ch f]) := by
    rintro k rfl hk
    cases hr
    exact ⟨rfl, fun _ => rfl, fun hbus => absurd hbus hk⟩
  cases hi : i.channel? with
  | none =>
    rcases exec_global_answers hi h with ⟨-, ht⟩ | ⟨d, evs, hok⟩
    · exact refusal _ ht nofun
    · cases hok.symm.trans hr
      exact absurd rfl hfailed
  | some ch =>
    rcases exec_channel_answers hi h with ⟨-, ht⟩ | ⟨-, ht⟩ | ⟨c, a, hc, hcompleted, rfl⟩
    · exact refusal _ ht nofun
    · exact refusal _ ht nofun
    · cases hr
      cases hcompleted with
      | ok code => exact absurd code hfailed
      | busFailure command =>
        subst command
        cases hi
        exact ⟨by rw [commit, startWork_chan, set_same hc], fun hbus => absurd rfl hbus, fun _ => ⟨_, _, rfl, rfl⟩⟩

/-- A well-formed command on a channel addresses one the block has (R75). -/
theorem exists_record_of_wf {i : Instr} {ch : ChIdx} {s : State} (hi : i.channel? = some ch) (hwf : i.wf s.nCh = true) :
    ∃ c, s.chans[ch.toNat]? = some c := by
  rw [Instr.wf, hi] at hwf
  exact ⟨_, List.getElem?_eq_getElem (of_decide_eq_true hwf)⟩

/-- R212: a well-formed command is answered `E_PRECOND` in each case of the table. -/
theorem exec_of_precondCause {i : Instr} {s : State} (hwf : i.wf s.nCh = true) (hfits : StreamFits s i)
    (hcause : PrecondCause s i) : exec i s = .next (replied s .ePrecond 0 []) := by
  cases hi : i.channel? with
  | none =>
    rcases channel?_eq_none hi with rfl | rfl | rfl
    · exact hcause.elim
    · exact exec_deinit_of_awake hcause
    · exact exec_tick_of_uninit hcause
  | some ch =>
    obtain ⟨c, hc⟩ := exists_record_of_wf hi hwf
    rw [exec_of_channel hi, onAnyChannel_some hc, (commandRule_refusedFor hi hc).refuses hfits hcause, endWith,
      andThen_next, commit_startWork hc]

/-- The answer of a well-formed command: `E_PRECOND` for a cause, OK, or BUSSYNC's bus failure. -/
theorem code_of_exec {i : Instr} {s t : State} {r : Response} (hwf : i.wf s.nCh = true) (h : exec i s = .next t)
    (hr : t.rsp = some r) :
    (PrecondCause s i ∧ r.code = .ePrecond) ∨ r.code = .ok ∨ ((∃ ch, i = .bussync ch) ∧ r.code = .eBus) := by
  cases hi : i.channel? with
  | none =>
    rcases exec_global_answers hi h with ⟨hcause, rfl⟩ | ⟨d, evs, hok⟩
    · cases hr
      exact .inl ⟨hcause, rfl⟩
    · cases hok.symm.trans hr
      exact .inr (.inl rfl)
  | some ch =>
    obtain ⟨c, hc⟩ := exists_record_of_wf hi hwf
    rcases exec_channel_answers hi h with ⟨hnone, -⟩ | ⟨hcause, rfl⟩ | ⟨d, a, -, hcompleted, rfl⟩
    · cases hnone.symm.trans hc
    · cases hr
      exact .inl ⟨hcause, rfl⟩
    · cases hr
      cases hcompleted with
      | ok code => exact .inr (.inl code)
      | busFailure command => exact .inr (.inr ⟨⟨_, command⟩, rfl⟩)

/-- Settles O10: a cause is answered with the refusal, and `E_PRECOND` is answered for a cause only. -/
theorem precondExactlyInTheListedCases : Obligations.PrecondExactlyInTheListedCases := by
  refine ⟨fun i s hwf hfits => ⟨?_, fun hcause => ⟨_, _, exec_of_precondCause hwf hfits hcause, rfl, rfl⟩⟩,
    fun i s t r hwf hbussync h hr => ?_⟩
  · rintro ⟨t, r, h, hr, hcode⟩
    rcases code_of_exec hwf h hr with ⟨hcause, -⟩ | hok | ⟨-, hbus⟩
    · exact hcause
    · cases hok.symm.trans hcode
    · cases hbus.symm.trans hcode
  · rcases code_of_exec hwf h hr with ⟨-, hprecond⟩ | hok | ⟨⟨ch, rfl⟩, -⟩
    · exact .inr hprecond
    · exact .inl hok
    · exact absurd rfl (hbussync ch)

end Sys2Proof.Proofs.Exceptions
end

section
/-! PROOFS, family 60_exceptions: R220 to R224. Each expiry handler is one transition of the states it names, or nothing. -/

namespace Sys2Proof.Proofs.Exceptions

open Sys2Proof Sys2Proof.Machine Sys2Proof.Proofs.Cbv

/-! ### An optional change of the transmit buffer -/

/-- A change of the transmit buffer made under a flag: with the flag the changed buffer, without it the buffer as it was. -/
theorem exists_tx_of_flag {flag : Bool} {c : Channel} {o : Out Channel} {Changed : Memory → Prop}
    (h : flag = true → ∃ tx', o = .next { c with tx := tx' } ∧ Changed tx') :
    ∃ tx', (flag = true → Changed tx') ∧ (flag = false → tx' = c.tx)
      ∧ (if flag then o else .next c) = .next { c with tx := tx' } := by
  cases flag with
  | false => exact ⟨c.tx, nofun, fun _ => rfl, rfl⟩
  | true =>
    obtain ⟨tx', ho, hchanged⟩ := h rfl
    exact ⟨tx', fun _ => hchanged, nofun, ho⟩

/-! ### The timeout handler -/

/-- R220: in the two transmitting states the timer is re-armed and the notification follows `tx_enabled`. -/
theorem expire_timeout_of_transmitting {e : Env} {w : Work}
    (hs : w.chan.state = .repeatMessage ∨ w.chan.state = .normalOperation) :
    expire e .timeout w = .next (txTimeoutNote e (rearmTimeout w)) := by
  rcases hs with hs | hs <;> simp only [expire, expireTimeout, hs, trNoNo]

theorem expire_timeout_of_readySleep {e : Env} {w : Work} (hs : w.chan.state = .readySleep) :
    expire e .timeout w = trRsPbs e w := by
  simp only [expire, expireTimeout, hs]

theorem expire_timeout_elsewhere {e : Env} {w : Work} (hrm : w.chan.state ≠ .repeatMessage)
    (hno : w.chan.state ≠ .normalOperation) (hrs : w.chan.state ≠ .readySleep) : expire e .timeout w = .next w := by
  cases hs : w.chan.state <;> simp_all [expire, expireTimeout]

/-- Two commands in progress with the same record, events and answers left are the same. -/
theorem work_ext {w : Work} {c : Channel} {evs : List Event} {back : List Bool} (hchan : w.chan = c)
    (hevents : w.events = evs) (hback : w.back = back) : w = ⟨c, evs, back⟩ := by
  subst hchan hevents hback
  rfl

/-- R133: the entry to Prepare-Bus-Sleep, once the active-wakeup bit is dealt with. -/
theorem trRsPbs_of_bit {e : Env} {w : Work} {c : Channel} {tx' : Memory}
    (hc : { w.chan with mode := .prepareBusSleep, state := .prepareBusSleep } = c)
    (h : (if c.cfg.awEn then cbvClr e.params e.params.cbvAw c else .next c) = .next { c with tx := tx' }) :
    trRsPbs e w = .next
      ⟨{ c with tx := tx', tm := { w.chan.tm with waitBusSleep := ⟨true, w.chan.cfg.tWbs⟩ } },
        w.events ++ .prepareBusSleep e.idx :: scEvents e.glob e.idx .readySleep .prepareBusSleep, w.back⟩ := by
  subst hc
  rw [trRsPbs, h, andThen_next]
  exact congrArg Host.Outcome.next (work_ext (sc_chan ..) (by simp) (sc_back ..))

/-- Settles O38, by the state the timer finds. -/
theorem timeoutHandlerActsByState : Obligations.TimeoutHandlerActsByState := by
  intro e w v
  refine ⟨fun hs => ?transmitting, fun hs hreadable => ?readySleep, expire_timeout_elsewhere⟩
  case transmitting =>
    rw [expire_timeout_of_transmitting hs]
    exact congrArg Host.Outcome.next (work_ext (txTimeoutNote_chan ..) (txTimeoutNote_events ..) (txTimeoutNote_back ..))
  case readySleep =>
    obtain ⟨tx', hcleared, hkept, hbit⟩ :=
      exists_tx_of_flag (c := { w.chan with mode := .prepareBusSleep, state := .prepareBusSleep })
        fun haw => cbvClr_of_readable (b := e.params.cbvAw) (hreadable haw)
    exact ⟨tx', hcleared, hkept, (expire_timeout_of_readySleep hs).trans (trRsPbs_of_bit rfl hbit)⟩

/-! ### The message-cycle handler -/

/-- R221, the pacing: the burst counter goes down on a success, and the timer is re-armed by the counter and the answer. -/
theorem afterCycleTx_eq (ok : Bool) (c : Channel) :
    afterCycleTx ok c =
      { c with
        immTxCnt := if c.immTxCnt ≠ 0 ∧ ok = true then c.immTxCnt - 1 else c.immTxCnt
        tm := { c.tm with msgCycle := ⟨true,
          if c.immTxCnt = 0 then c.cfg.tMsgCycle
          else if ok = false then 0
          else if c.immTxCnt = 1 then c.cfg.tMsgCycle
          else c.cfg.tImmCycle⟩ } } := by
  have hlast : c.immTxCnt - 1 = 0 ↔ c.immTxCnt = 1 := sub_eq_zero
  unfold afterCycleTx
  by_cases hburst : c.immTxCnt = 0
  · simp only [hburst, ne_eq, not_true_eq_false, false_and, if_true, if_false]
    rw [← hburst]
    rfl
  · cases ok with
    | false => simp only [hburst, ne_eq, not_false_eq_true, reduceCtorEq, and_false, if_true, if_false, tStart, setTimer]
    | true =>
      simp only [hburst, hlast, ne_eq, not_false_eq_true, reduceCtorEq, and_self, ite_not, if_true, if_false, tStart,
        setTimer]

/-- R221, R226: a readable buffer goes out, the next bus answer is consumed, and the answer paces the next request. -/
theorem expire_msgCycle_of_sent {e : Env} {w : Work} {f : List Byte} {ok : Bool} {rest : List Bool}
    (hs : w.chan.state = .repeatMessage ∨ w.chan.state = .normalOperation) (htx : w.chan.txEnabled = true)
    (hframe : readTxFrame w.chan = .next f) (hback : w.back = ok :: rest) :
    expire e .msgCycle w = .next ⟨afterCycleTx ok w.chan, w.events ++ [.txReq e.idx f], rest⟩ := by
  have hsend : busTx e w = .next (⟨w.chan, w.events ++ [.txReq e.idx f], rest⟩, ok) :=
    busTx_eq_next.mpr ⟨f, rest, hframe, hback, rfl⟩
  rw [expire, expireMsgCycle, if_pos ⟨hs, htx⟩, hsend]
  rfl

/-- Settles O39: the frame is the readable buffer, and what follows is the pacing. -/
theorem messageCycleHandlerTransmitsAndPaces : Obligations.MessageCycleHandlerTransmitsAndPaces := by
  intro e w ok rest
  refine ⟨fun hs htx hreadable hback => ?_, fun hidle => if_neg hidle⟩
  obtain ⟨f, hframe⟩ := readTxFrame_of_readable hreadable
  obtain ⟨hlength, hbytes⟩ := readTxFrame_eq_next.mp hframe
  refine ⟨f, hlength, fun k hk _ => hbytes k hk, ?_⟩
  rw [expire_msgCycle_of_sent hs htx hframe hback, afterCycleTx_eq]

/-! ### The repeat-message handler -/

/-- R126: the entry to Normal-Operation, once the control-bit-vector is cleared. -/
theorem trRmNo_of_cleared {e : Env} {w : Work} {c : Channel} {tx' : Memory}
    (hc : { w.chan with state := .normalOperation, blrActive := w.chan.cfg.blrEn } = c)
    (h : cbvClrAll e.params c = .next { c with tx := tx' }) :
    trRmNo e w = .next
      ⟨{ c with
          tx := tx'
          tm := if w.chan.rsiEnabled then { w.chan.tm with remoteSleep := ⟨true, w.chan.cfg.tRsi⟩ } else w.chan.tm },
        w.events ++ scEvents e.glob e.idx .repeatMessage .normalOperation, w.back⟩ := by
  subst hc
  rw [trRmNo, h, andThen_next]
  refine congrArg Host.Outcome.next (work_ext ?_ (sc_events ..) (sc_back ..))
  rw [sc_chan, withChan_chan]
  cases hrsi : w.chan.rsiEnabled <;> rfl

/-- R125: the entry to Ready-Sleep, once the control-bit-vector is dealt with. -/
theorem trRmRs_of_cleared {e : Env} {w : Work} {c : Channel} {tx' : Memory}
    (hc : { w.chan with state := .readySleep, txEnabled := false } = c)
    (h : (if c.cfg.ndEn then cbvClrAll e.params c else .next c) = .next { c with tx := tx' }) :
    trRmRs e w = .next
      ⟨{ c with tx := tx' }, w.events ++ scEvents e.glob e.idx .repeatMessage .readySleep, w.back⟩ := by
  subst hc
  rw [trRmRs, h, andThen_next]
  exact congrArg Host.Outcome.next (work_ext (sc_chan ..) (sc_events ..) (sc_back ..))

/-- R222: `requested` chooses the transition. -/
theorem expire_repeatMsg_of_repeatMessage {e : Env} {w : Work} (hs : w.chan.state = .repeatMessage) :
    expire e .repeatMsg w = if w.chan.requested then trRmNo e w else trRmRs e w := if_pos hs

/-- Settles O40: towards Normal-Operation the byte is always cleared, towards Ready-Sleep under `c.nd_en`. -/
theorem repeatMessageHandlerGoesByRequested : Obligations.RepeatMessageHandlerGoesByRequested := by
  intro e w hinRange hs
  refine ⟨fun hreq => ?requested, fun hreq => ?released⟩ <;> rw [expire_repeatMsg_of_repeatMessage hs, hreq]
  case requested =>
    obtain ⟨tx', hcleared, hwritten⟩ :=
      cbvClrAll_of_inRange (c := { w.chan with state := .normalOperation, blrActive := w.chan.cfg.blrEn }) hinRange
    exact ⟨tx', hwritten, trRmNo_of_cleared rfl hcleared⟩
  case released =>
    obtain ⟨tx', hwritten, hkept, hcleared⟩ :=
      exists_tx_of_flag (flag := w.chan.cfg.ndEn) (c := { w.chan with state := .readySleep, txEnabled := false })
        fun _ => cbvClrAll_of_inRange hinRange
    exact ⟨tx', hwritten, hkept, trRmRs_of_cleared rfl hcleared⟩

/-! ### The sleep handlers -/

/-- R135. -/
theorem trPbsBs_eq (e : Env) (w : Work) :
    trPbsBs e w =
      ⟨{ w.chan with mode := .busSleep, state := .busSleep },
        w.events ++ .busSleep e.idx :: scEvents e.glob e.idx .prepareBusSleep .busSleep, w.back⟩ :=
  work_ext (sc_chan ..) (by simp [trPbsBs]) (sc_back ..)

/-- Settles O41: each handler is its one effect behind its condition. -/
theorem sleepHandlersActByState : Obligations.SleepHandlersActByState := by
  intro e w
  refine ⟨fun hs => ?_, fun hs => if_neg hs, fun hs hen hind => if_pos ⟨hs, hen, hind⟩, fun hidle => if_neg hidle⟩
  rw [← trPbsBs_eq]
  exact if_pos hs

end Sys2Proof.Proofs.Exceptions
end

section
/-! PROOFS, family 60_exceptions: R222, R216, R57. The repeat-message timer runs in Repeat-Message only; and from a state
with the invariant every operation goes on or stops for a reason 93 U1 and U8 list. -/

namespace Sys2Proof.Proofs.Exceptions

open Sys2Proof Sys2Proof.Machine Sys2Proof.Proofs.Tick Sys2Proof.Proofs.Data

/-! ### The repeat-message timer -/

/-- The record's pair is legal, and its repeat-message timer runs in Repeat-Message only (R13, R222). -/
def RepeatsInOrder (c : Channel) : Prop :=
  legalPair c.mode c.state = true ∧ (c.tm.repeatMsg.run = true → c.state = .repeatMessage)

theorem exec_keeps_repeatsInOrder {i : Instr} {s t : State} (hs : ∀ c ∈ s.chans, RepeatsInOrder c)
    (h : exec i s = .next t) : ∀ c ∈ t.chans, RepeatsInOrder c :=
  exec_keeps_channelwise (fun _ _ c => RepeatsInOrder c)
    (fun _ _ _ _ _ ha ⟨hlegal, hrepeat⟩ =>
      have frame := rule_frame _ _ _ _ _ ha
      ⟨frame.legal hlegal, frame.repeatTimer hlegal hrepeat⟩)
    (fun e T w w' hu ⟨hlegal, hrepeat⟩ ht =>
      have frame := tick_frame e T w w' ht
      ⟨⟨frame.legal hlegal, frame.repeatTimer hrepeat⟩, frame.initialised hu⟩)
    (fun _ _ _ _ _ _ _ => ⟨rfl, nofun⟩)
    (fun _ _ c hs ⟨hlegal, hrepeat⟩ =>
      ⟨by simp only [State.mode_eq_of_asleep hlegal hs, legalPair], fun hrun => by cases hs.symm.trans (hrepeat hrun)⟩)
    i s t hs h

/-- Settles O49: record by record, together with the legality of the pair that the frame lemmas need. -/
theorem repeatTimerRunsInRepeatMessageOnly : Obligations.RepeatTimerRunsInRepeatMessageOnly := by
  intro s t ⟨hlegal, _⟩ hrepeat h c hc
  have hkept := step_keeps_channelwise (fun _ _ c => RepeatsInOrder c) (fun _ _ _ => exec_keeps_repeatsInOrder)
    (fun _ => ⟨rfl, nofun⟩) s t (fun c hc => ⟨hlegal c hc, hrepeat c hc⟩) h
  exact (hkept c hc).right

/-! ### Operations that stop for listed reasons only -/

/-- The operation does not fault, and is refused only for the reasons `R`. -/
structure StopsOnlyFor {α : Type} (R : Refusal → Prop) (o : Out α) : Prop where
  noFault : ∀ f, o ≠ .fault f
  refusal : ∀ r, o = .refused r → R r

section Combinators

variable {α β : Type} {R : Refusal → Prop}

theorem StopsOnlyFor.next (a : α) : StopsOnlyFor R (.next a) := ⟨nofun, nofun⟩

theorem StopsOnlyFor.refused {r : Refusal} (h : R r) : StopsOnlyFor R (.refused r : Out α) := by
  refine ⟨nofun, ?_⟩
  rintro _ ⟨⟩
  exact h

theorem StopsOnlyFor.of_goesOn {o : Out α} (h : GoesOn o) : StopsOnlyFor R o := by
  obtain ⟨a, rfl⟩ := h
  exact .next a

theorem StopsOnlyFor.mono {R' : Refusal → Prop} {o : Out α} (h : StopsOnlyFor R o) (himp : ∀ r, R r → R' r) :
    StopsOnlyFor R' o :=
  ⟨h.noFault, fun r hr => himp r (h.refusal r hr)⟩

theorem StopsOnlyFor.ite {P : Prop} [Decidable P] {o o' : Out α} (h : P → StopsOnlyFor R o)
    (h' : ¬ P → StopsOnlyFor R o') : StopsOnlyFor R (if P then o else o') := by
  split
  · rename_i hp
    exact h hp
  · rename_i hp
    exact h' hp

theorem StopsOnlyFor.andThen {o : Out α} {k : α → Out β} (h : StopsOnlyFor R o)
    (hk : ∀ a, o = .next a → StopsOnlyFor R (k a)) : StopsOnlyFor R (andThen o k) := by
  cases o with
  | next a => exact hk a rfl
  | fault f => exact absurd rfl (h.noFault f)
  | refused r => exact .refused (h.refusal r rfl)

end Combinators

/-! ### TICK -/

/-- A transmit request of a readable buffer lacks at most its answer (93 U8). -/
theorem busTx_stopsOnly {R : Refusal → Prop} {e : Env} {w : Work} (hframe : TxReadable w.chan)
    (hR : w.back = [] → R .noBusAnswer) : StopsOnlyFor R (busTx e w) := by
  cases hback : w.back with
  | cons ok rest => exact .of_goesOn (goesOn_busTx hframe (by simp [hback]))
  | nil =>
    obtain ⟨f, hf⟩ := readTxFrame_of_readable hframe
    have hrefused : busTx e w = .refused .noBusAnswer := by simp [busTx, hf, hback]
    rw [hrefused]
    exact .refused (hR hback)

/-- The one reason for which a tick of a ready channel can be refused. -/
abbrev LacksAnswer (r : Refusal) : Prop := r = .noBusAnswer

theorem expire_stopsOnly {e : Env} {T : TimerSel} {w : Work} (hframe : FrameComplete e.params w.chan) :
    StopsOnlyFor LacksAnswer (expire e T w) := by
  cases T with
  | msgCycle =>
    exact .ite (fun _ => .andThen (busTx_stopsOnly hframe.readable fun _ => rfl) fun _ _ => .next _) fun _ => .next _
  | _ => exact .of_goesOn (goesOn_expire hframe (Nat.zero_le _))

theorem tTick_stopsOnly {e : Env} {T : TimerSel} {d : Dur} {w : Work} (hframe : FrameComplete e.params w.chan) :
    StopsOnlyFor LacksAnswer (tTick (expire e) T d w) := by
  rcases tTick_cases (expire e) T d w with ⟨-, htick⟩ | ⟨-, -, htick⟩ | ⟨-, -, htick⟩ <;> rw [htick]
  · exact .next _
  · exact .next _
  · exact expire_stopsOnly ⟨hframe.readable, hframe.cbvInside⟩

theorem tickTimers_stopsOnly {e : Env} {Ts : List TimerSel} {w : Work} (hframe : FrameComplete e.params w.chan) :
    StopsOnlyFor LacksAnswer (tickTimers e Ts w) := by
  induction Ts generalizing w with
  | nil => exact .next _
  | cons T Ts ih =>
    exact .andThen (tTick_stopsOnly hframe) fun w' htick => ih (hframe.of_tickFrame (tick_frame e T w w' htick))

theorem tickChannels_stopsOnly {p : Params} {g : GlobCfg} {cs : List Channel} {k : Nat} {evs : List Event}
    {back : List Bool} (hframe : ∀ c ∈ cs, FrameComplete p c) :
    StopsOnlyFor LacksAnswer (tickChannels p g k cs evs back) := by
  induction cs generalizing k evs back with
  | nil => exact .next _
  | cons c cs ih =>
    obtain ⟨hc, hcs⟩ := List.forall_mem_cons.mp hframe
    exact .andThen (tickTimers_stopsOnly (w := ⟨c, evs, back⟩) hc) fun w _ => .andThen (ih hcs) fun _ _ => .next _

/-- R216: TICK is refused only with fewer bus answers than channels. -/
theorem execTick_stopsOnly {s : State} (hp : s.params.wf = true) (hready : ReadyInv s) :
    StopsOnlyFor (fun r => r = .noBusAnswer ∧ s.operands.back.length < s.nCh) (execTick s) := by
  refine .ite (fun hinit => .andThen ?_ fun _ _ => .next _) fun _ => .next _
  have hframe : ∀ c ∈ s.chans, FrameComplete s.params c := fun c hc =>
    .of_ready (hready c hc (of_decide_eq_true (List.all_eq_true.mp hinit c hc)))
  by_cases hback : s.nCh ≤ s.operands.back.length
  · obtain ⟨r, hticked, -, -⟩ := exists_tickChannels (g := s.glob) (k := 0) (evs := []) hp hframe hback
    exact .of_goesOn ⟨r, hticked⟩
  · exact (tickChannels_stopsOnly hframe).mono fun r hr => ⟨hr, not_le.mp hback⟩

/-! ### Commands on a channel -/

/-- The reasons for which a command on a ready channel can be refused (93 U8). -/
inductive LacksOperand (s : State) (i : Instr) : Refusal → Prop
  | stream (length : ¬ StreamFits s i) : LacksOperand s i .streamLength
  | answer {ch : ChIdx} (command : i = .bussync ch) (none : s.operands.back = []) : LacksOperand s i .noBusAnswer

/-- Setting a bit reads and writes the byte that clearing one does. -/
theorem goesOn_cbvSet {p : Params} {c : Channel} (h : FrameComplete p c) (b : Fin 8) : GoesOn (cbvSet p b c) := by
  obtain ⟨c', hclr⟩ := h.goesOn_cbvClr b
  rcases cbvModify_eq_next.mp hclr with ⟨habsent, -⟩ | ⟨hpresent, hinside, v, hv, -⟩
  · exact ⟨_, cbvModify_eq_next.mpr (.inl ⟨habsent, rfl⟩)⟩
  · exact ⟨_, cbvModify_eq_next.mpr (.inr ⟨hpresent, hinside, v, hv, rfl⟩)⟩

section Rules

variable {R : Refusal → Prop} {e : Env} {w : Work}

theorem StopsOnlyFor.gate {P : Prop} [Decidable P] {o : Out Answer} (h : ¬ P → StopsOnlyFor R o) :
    StopsOnlyFor R (if P then endWith .ePrecond w else o) := .ite (fun _ => .next _) h

theorem StopsOnlyFor.requireStream {din : List Byte} {n : Nat} {o : Out Answer}
    (hR : din.length ≠ n → R .streamLength) (h : din.length = n → StopsOnlyFor R o) :
    StopsOnlyFor R (requireStream din n o) := .ite h fun hne => .refused (hR hne)

theorem netreqRule_stopsOnly (hframe : FrameComplete e.params w.chan) : StopsOnlyFor R (netreqRule e w) := by
  by_cases hmode : w.chan.mode = .network
  · rw [Control.netreqRule_of_awake hmode]
    exact .next _
  · rw [Control.netreqRule_of_asleep hmode]
    have hlatched : FrameComplete e.params (Control.latchRequest w).chan := ⟨hframe.readable, hframe.cbvInside⟩
    have hbit : StopsOnlyFor R (if w.chan.cfg.awEn then cbvSet e.params e.params.cbvAw (Control.latchRequest w).chan
        else .next (Control.latchRequest w).chan) := .ite (fun _ => .of_goesOn (goesOn_cbvSet hlatched _)) fun _ => .next _
    exact .andThen (.andThen hbit fun _ _ => .next _) fun _ _ => .next _

/-- A read of the newest frame stays inside it. -/
theorem readRx_stopsOnly {c : Channel} {k n : Nat} (hreadable : RxReadable c) (hk : k + n ≤ c.cfg.rxLen.toNat) :
    StopsOnlyFor R (readRx c k n) := by
  obtain ⟨f, hf⟩ := exists_newestFrame hreadable
  exact .of_goesOn ⟨_, hf.readRx_eq hk⟩

end Rules

/-- R216, R57: a command on a ready channel accesses no byte outside its buffers and none without a value. -/
theorem commandRule_stopsOnly {s : State} {i : Instr} {ch : ChIdx} {c : Channel} (hi : i.channel? = some ch)
    (hc : s.chans[ch.toNat]? = some c) (hready : c.state ≠ .uninit → ReadyChannel s.params c) :
    StopsOnlyFor (LacksOperand s i) (commandRule s.operands i (envOf s ch) (startWork s c)) := by
  cases i <;> cases hi
  case getst => exact .next _
  all_goals
    refine .gate fun hu => ?_
    obtain ⟨hlegal, hreadable, hrx⟩ := hready hu
    have hframe : FrameComplete s.params c := .of_ready ⟨hlegal, hreadable, hrx⟩
    obtain ⟨hdepth, hoffTx, hoffRx⟩ := bounds_of_legalChan hlegal
  case netreq => exact netreqRule_stopsOnly hframe
  case netrel => exact .next _
  case encom => exact .gate fun _ => .next _
  case discom => exact .gate fun _ => .next _
  case pstart => exact .gate fun _ => .next _
  case getlnid => exact .gate fun _ => .next _
  case chkrsi => exact .gate fun _ => .next _
  case pnconf => exact .gate fun _ => .next _
  case txconf => exact .next _
  case rmreq => exact .gate fun _ => .andThen (.of_goesOn (goesOn_cbvSet hframe _)) fun _ _ => .next _
  case setsrb => exact .gate fun _ => .andThen (.of_goesOn (goesOn_cbvSet hframe _)) fun _ _ => .next _
  case bussync =>
    refine .gate fun _ => .andThen (busTx_stopsOnly hreadable (.answer rfl)) fun r _ => ?_
    exact .ite (fun _ => .next _) fun _ => .next _
  case trigtx =>
    exact .gate fun _ => .andThen (.of_goesOn (readTxFrame_of_readable hreadable)) fun _ _ => .next _
  case setud =>
    refine .requireStream (fun hne => .stream fun hfits => hne (hfits c hc)) fun hlen => .gate fun _ => ?_
    have hlen : s.operands.din.length = c.cfg.txLen.toNat - udOff s.params c.cfg := hlen
    have hfits : udOff s.params c.cfg + s.operands.din.length ≤ c.cfg.txLen.toNat := by omega
    exact .andThen (.of_goesOn ⟨_, writeTxFrom_of_fits hfits⟩) fun _ _ => .next _
  case rxind =>
    refine .requireStream (fun hne => .stream fun hfits => hne (hfits c hc)) fun hlen => ?_
    exact .andThen (.of_goesOn ⟨_, storeRx_of_fits hdepth hlen⟩) fun _ _ => .next _
  case getpdu =>
    refine .gate fun hreceived => .andThen ?_ fun _ _ => .next _
    exact readRx_stopsOnly (hrx.resolve_left hreceived) (Nat.zero_add _).le
  case getud =>
    refine .gate fun hgate => .andThen ?_ fun _ _ => .next _
    exact readRx_stopsOnly (hrx.resolve_left fun hnone => hgate (.inr hnone)) (Nat.add_sub_of_le hoffRx).le
  case getnid =>
    refine .gate fun hgate => .andThen ?_ fun _ _ => .next _
    obtain ⟨hnid, -, -⟩ := State.positions_of_legalChan hlegal
    have hpos := State.toNat_lt_of_legalPos hnid fun habsent => hgate (.inr (.inl habsent))
    exact readRx_stopsOnly (hrx.resolve_left fun hnone => hgate (.inr (.inr hnone))) (hpos.trans_le hoffRx)

/-! ### Steps -/

/-- Why a command can be refused in a state with the invariant: the reasons of 93 U1 and U8, and INIT with another number of
channel records (notes/assumptions/12.md). -/
abbrev RefusedBecause (s : State) (i : Instr) (r : Refusal) : Prop :=
  (r = .illegalConfiguration ∧ i = .init ∧ legalCfg s.params s.operands.cfg = false)
    ∨ (r = .configurationShape ∧ i = .init ∧ s.operands.cfg.chans.length ≠ s.nCh)
    ∨ (r = .streamLength ∧ ¬ StreamFits s i)
    ∨ (r = .noBusAnswer ∧ i = .tick ∧ s.operands.back.length < s.nCh)
    ∨ (r = .noBusAnswer ∧ (∃ ch, i = .bussync ch) ∧ s.operands.back = [])

theorem execInit_stopsOnly (s : State) : StopsOnlyFor (RefusedBecause s .init) (execInit s) := by
  refine .ite (fun hshape => .refused (.inr (.inl ⟨rfl, rfl, hshape⟩))) fun _ => ?_
  exact .ite (fun _ => .next _) fun hillegal => .refused (.inl ⟨rfl, rfl, eq_false_of_ne_true hillegal⟩)

/-- R216: no command faults when every initialised channel is ready. -/
theorem exec_stopsOnly {s : State} (hp : s.params.wf = true) (hready : ReadyInv s) (i : Instr) :
    StopsOnlyFor (RefusedBecause s i) (exec i s) := by
  cases hi : i.channel? with
  | none =>
    rcases channel?_eq_none hi with rfl | rfl | rfl
    · exact execInit_stopsOnly s
    · exact .ite (fun _ => .next _) fun _ => .next _
    · refine (execTick_stopsOnly hp hready).mono fun r hr => ?_
      exact .inr (.inr (.inr (.inl ⟨hr.left, rfl, hr.right⟩)))
  | some ch =>
    rw [exec_of_channel hi]
    cases hc : s.chans[ch.toNat]? with
    | none =>
      rw [onAnyChannel_none hc]
      exact .next _
    | some c =>
      rw [onAnyChannel_some hc]
      refine .andThen ((commandRule_stopsOnly hi hc (hready c (List.mem_of_getElem? hc))).mono ?_) fun _ _ => .next _
      rintro _ (⟨hlength⟩ | ⟨hcommand, hnone⟩)
      · exact .inr (.inr (.inl ⟨rfl, hlength⟩))
      · exact .inr (.inr (.inr (.inr ⟨rfl, ⟨_, hcommand⟩, hnone⟩)))

/-- Settles O52: only a command can stop, and it finds the channels, the parameters and its own operands. -/
theorem nothingIsFatal : Obligations.NothingIsFatal := by
  intro s hinv
  suffices h : StopsOnlyFor (fun r => ∃ c rest i, s.port = .command c :: rest ∧ decode c.word = .ok i
      ∧ RefusedBecause { s with operands := c.operands } i r) (step s) from ⟨h.noFault, h.refusal⟩
  unfold step
  split
  · exact .next _
  · exact .next _
  · rename_i c rest hport
    unfold runWord
    split
    · rename_i i hi
      exact (exec_stopsOnly (s := accept s c rest) hinv.params hinv.ready i).mono fun r hr => ⟨c, rest, i, hport, hi, hr⟩
    · exact .next _

end Sys2Proof.Proofs.Exceptions
end

section
/-! PROOFS, family 70_reset_and_hazards: R240, R35. In Uninit every command but INIT answers from the states and modes of
the channels alone, and INIT and `rst` overwrite what hardware reset leaves unspecified; so nothing reads it. -/

namespace Sys2Proof.Proofs.Reset

open Sys2Proof Sys2Proof.Machine Sys2Proof.Proofs.State Sys2Proof.Proofs.Control Sys2Proof.Proofs.Exceptions

/-! ### What hardware reset leaves -/

/-- R240: the reset pin is an input of its own. -/
theorem step_of_rst {s : State} {rest : List Input} (h : s.port = .rst :: rest) :
    step s = .next (hardReset s rest) := by
  rw [step, h]

theorem getTimer_reset (T : TimerSel) : getTimer Channel.reset T = ⟨false, 0⟩ := by
  cases T <;> rfl

/-- Settles O7: every channel of the reset state is `Channel.reset`, and the reset pin brings the block to that state. -/
theorem hardwareResetLeavesTheListedValues : Obligations.HardwareResetLeavesTheListedValues := by
  refine ⟨fun p n port c hc => ?channel, fun s rest hport => step_of_rst hport⟩
  case channel =>
    obtain rfl : c = .reset := List.eq_of_mem_replicate hc
    exact ⟨rfl, rfl, rfl, rfl, rfl, rfl, rfl, rfl, rfl, rfl, getTimer_reset, fun _ => ⟨rfl, rfl⟩⟩

/-! ### The erasure -/

/-- No channel is initialised: the block as R13 has it before INIT. -/
def AllUninit (s : State) : Prop := ∀ c ∈ s.chans, c.state = .uninit

/-- A channel with the registers erased that R40 leaves unspecified: the configuration, TX and RX. -/
def eraseUnspecified (c : Channel) : Channel := { c with cfg := .zero, tx := [], rx := [] }

@[simp] theorem eraseUnspecified_comp_self : eraseUnspecified ∘ eraseUnspecified = eraseUnspecified := rfl

theorem forgetUnspecified_eq (s : State) :
    forgetUnspecified s = { s with glob := .zero, chans := s.chans.map eraseUnspecified } := rfl

@[simp] theorem forgetUnspecified_params (s : State) : (forgetUnspecified s).params = s.params := rfl
@[simp] theorem forgetUnspecified_chans (s : State) :
    (forgetUnspecified s).chans = s.chans.map eraseUnspecified := rfl
@[simp] theorem forgetUnspecified_operands (s : State) : (forgetUnspecified s).operands = s.operands := rfl
@[simp] theorem forgetUnspecified_port (s : State) : (forgetUnspecified s).port = s.port := rfl
@[simp] theorem forgetUnspecified_nCh (s : State) : (forgetUnspecified s).nCh = s.nCh := List.length_map ..

theorem forgetUnspecified_idem (s : State) : forgetUnspecified (forgetUnspecified s) = forgetUnspecified s := by
  simp [forgetUnspecified_eq]

theorem allUninit_forgetUnspecified {s : State} : AllUninit (forgetUnspecified s) ↔ AllUninit s := List.forall_mem_map

/-! ### Commands in Uninit -/

/-- R210: in Uninit a command on a channel answers by the channel's existence, or, GETST, by its state and mode. -/
theorem forgetUnspecified_exec_channel {i : Instr} {ch : ChIdx} {s : State} (hi : i.channel? = some ch)
    (hs : AllUninit s) : mapOut forgetUnspecified (exec i s) = exec i (forgetUnspecified s) := by
  obtain ⟨hrefused, hgetst, -⟩ := uninitRefusesAllButGetstAndInit
  cases hc : s.chans[ch.toNat]? with
  | none =>
    have hc' : (forgetUnspecified s).chans[ch.toNat]? = none := by simp [hc]
    rw [exec_of_channel hi, exec_of_channel hi, onAnyChannel_none hc, onAnyChannel_none hc']
    rfl
  | some c =>
    have hc' : (forgetUnspecified s).chans[ch.toNat]? = some (eraseUnspecified c) := by simp [hc]
    have hu : c.state = .uninit := hs c (List.mem_of_getElem? hc)
    by_cases hget : i = .getst ch
    · subst hget
      rw [hgetst s ch c hc hu, hgetst _ ch _ hc' hu]
      rfl
    · rw [hrefused s i ch c hi hget hc hu, hrefused _ i ch _ hi hget hc' hu]
      rfl

/-- DEINIT reads and writes the states alone (R151). -/
theorem forgetUnspecified_exec_deinit (s : State) :
    mapOut forgetUnspecified (exec .deinit s) = exec .deinit (forgetUnspecified s) := by
  have hall : (forgetUnspecified s).chans.all (fun c => decide (c.state = .busSleep))
      = s.chans.all (fun c => decide (c.state = .busSleep)) := List.all_map
  rw [exec, exec, execDeinit, execDeinit, hall]
  refine mapOut_ite (congrArg Host.Outcome.next ?_) rfl
  simp only [forgetUnspecified_eq, List.map_map]
  rfl

/-- R210: in Uninit TICK is refused, unless there is no channel to tick. -/
theorem forgetUnspecified_exec_tick {s : State} (hs : AllUninit s) :
    mapOut forgetUnspecified (exec .tick s) = exec .tick (forgetUnspecified s) := by
  have hs' : AllUninit (forgetUnspecified s) := allUninit_forgetUnspecified.mpr hs
  by_cases hempty : s.chans = []
  · simp [exec, execTick, initialised, tickChannels, hempty, forgetUnspecified_eq]
  · obtain ⟨c, hc⟩ := List.exists_mem_of_ne_nil _ hempty
    have hc' : eraseUnspecified c ∈ (forgetUnspecified s).chans := List.mem_map_of_mem hc
    rw [exec_tick_of_uninit ⟨c, hc, hs c hc⟩, exec_tick_of_uninit ⟨_, hc', hs' _ hc'⟩]
    rfl

/-- INIT takes the configuration from its operand; of a channel's old record it keeps bytes of the buffers alone (R150). -/
theorem mapOut_forgetUnspecified_exec_init (s : State) :
    mapOut forgetUnspecified (exec .init s) = mapOut forgetUnspecified (exec .init (forgetUnspecified s)) := by
  have hchans : ∀ g fs, (List.zipWith (initChannel s.params g) fs s.chans).map eraseUnspecified
      = (List.zipWith (initChannel s.params g) fs (s.chans.map eraseUnspecified)).map eraseUnspecified := fun g fs => by
    rw [List.zipWith_map_right, List.map_zipWith, List.map_zipWith]
    rfl
  simp only [exec, execInit, forgetUnspecified_nCh, forgetUnspecified_operands, forgetUnspecified_params]
  refine mapOut_ite_congr rfl (mapOut_ite_congr (congrArg Host.Outcome.next ?_) rfl)
  simp only [forgetUnspecified_eq, hchans]
  rfl

/-- Every command goes on alike in Uninit, up to the unspecified registers, whatever they hold. -/
theorem mapOut_forgetUnspecified_exec (i : Instr) {s : State} (hs : AllUninit s) :
    mapOut forgetUnspecified (exec i s) = mapOut forgetUnspecified (exec i (forgetUnspecified s)) := by
  have hs' : AllUninit (forgetUnspecified s) := allUninit_forgetUnspecified.mpr hs
  cases hi : i.channel? with
  | some ch =>
    rw [forgetUnspecified_exec_channel hi hs, forgetUnspecified_exec_channel hi hs', forgetUnspecified_idem]
  | none =>
    rcases channel?_eq_none hi with rfl | rfl | rfl
    · exact mapOut_forgetUnspecified_exec_init s
    · rw [forgetUnspecified_exec_deinit, forgetUnspecified_exec_deinit, forgetUnspecified_idem]
    · rw [forgetUnspecified_exec_tick hs, forgetUnspecified_exec_tick hs', forgetUnspecified_idem]

/-! ### Steps in Uninit -/

/-- Every step goes on alike in Uninit, up to the unspecified registers, whatever they hold. -/
theorem mapOut_forgetUnspecified_step {s : State} (hs : AllUninit s) :
    mapOut forgetUnspecified (step s) = mapOut forgetUnspecified (step (forgetUnspecified s)) := by
  unfold step
  rw [forgetUnspecified_port]
  split
  · exact congrArg Host.Outcome.next (forgetUnspecified_idem s).symm
  · simp only [hardReset, forgetUnspecified_nCh, forgetUnspecified_params]
  · rename_i c rest _
    unfold runWord
    split
    · exact mapOut_forgetUnspecified_exec _ (s := accept s c rest) hs
    · exact congrArg Host.Outcome.next (forgetUnspecified_idem (answer (accept s c rest) .eIllegal)).symm

/-- Settles O57: from either block the step agrees with the step from the common block without the unspecified registers,
and that block shows that both are in Uninit. -/
theorem unspecifiedRegistersAreNotReadBeforeInit : Obligations.UnspecifiedRegistersAreNotReadBeforeInit := by
  intro s s' hs h
  have hs' : AllUninit s' := allUninit_forgetUnspecified.mp (h ▸ allUninit_forgetUnspecified.mpr hs)
  rw [agreeUpTo_iff_mapOut_eq, mapOut_forgetUnspecified_step hs, mapOut_forgetUnspecified_step hs', h]

end Sys2Proof.Proofs.Reset
end

section
/-! PROOFS, family 70_reset_and_hazards: R250(a). With the order of R7 the wait-bus-sleep timer that the timeout handler
starts is visited later in the same TICK, and between the two visits no handler acts on the sleeping channel. -/

namespace Sys2Proof.Proofs.Hazards

open Sys2Proof Sys2Proof.Machine Sys2Proof.Proofs.Tick Sys2Proof.Proofs.Exceptions

/-! ### Timers of a sleeping channel -/

/-- The states of an initialised channel outside Network mode (R13). -/
def Asleep (c : Channel) : Prop := c.state = .prepareBusSleep ∨ c.state = .busSleep

theorem Asleep.state_ne {c : Channel} (h : Asleep c) :
    c.state ≠ .repeatMessage ∧ c.state ≠ .normalOperation ∧ c.state ≠ .readySleep := by
  rcases h with h | h <;> rw [h] <;> exact ⟨nofun, nofun, nofun⟩

/-- R220 to R224: on a sleeping channel no handler but the wait-bus-sleep timer's acts. -/
theorem expire_of_asleep {e : Env} {T : TimerSel} {w : Work} (hs : Asleep w.chan) (hT : T ≠ .waitBusSleep) :
    expire e T w = .next w := by
  obtain ⟨hrm, hno, hrs⟩ := hs.state_ne
  cases T with
  | timeout => exact expire_timeout_elsewhere hrm hno hrs
  | msgCycle => exact if_neg fun ⟨hs, _⟩ => hs.elim hrm hno
  | repeatMsg => exact if_neg hrm
  | waitBusSleep => exact absurd rfl hT
  | remoteSleep => exact if_neg fun ⟨hs, _⟩ => hno hs

/-- A tick of such a timer changes that timer at most. -/
theorem exists_tTick_of_asleep (e : Env) {T : TimerSel} (d : Dur) {w : Work} (hs : Asleep w.chan)
    (hT : T ≠ .waitBusSleep) : ∃ t, tTick (expire e) T d w = .next (withChan w (setTimer w.chan T t)) := by
  rcases tTick_cases (expire e) T d w with ⟨-, htick⟩ | ⟨-, -, htick⟩ | ⟨-, -, htick⟩
  · exact ⟨getTimer w.chan T, by rw [htick, setTimer_getTimer]; rfl⟩
  · exact ⟨_, htick⟩
  · exact ⟨_, htick.trans (expire_of_asleep hs hT)⟩

/-! ### From Ready-Sleep to Bus-Sleep -/

/-- The channel has entered Prepare-Bus-Sleep from Ready-Sleep, with the events of that transition and no bus answer
consumed, and its wait-bus-sleep timer has been started (R133). -/
structure PreparesBusSleep (e : Env) (w w' : Work) : Prop where
  state : w'.chan.state = .prepareBusSleep
  timer : getTimer w'.chan .waitBusSleep = ⟨true, w.chan.cfg.tWbs⟩
  back : w'.back = w.back
  events : w'.events = w.events ++ .prepareBusSleep e.idx :: scEvents e.glob e.idx .readySleep .prepareBusSleep

/-- R220: the timeout timer due in Ready-Sleep. -/
theorem exists_tTick_preparesBusSleep {e : Env} {w : Work} {v : Byte} (hs : w.chan.state = .readySleep)
    (hrun : w.chan.tm.timeout.run = true) (hdue : w.chan.tm.timeout.cnt.toNat ≤ e.glob.tickPeriod.toNat)
    (hreadable : CbvReadable e.params w.chan v) :
    ∃ w', tTick (expire e) .timeout e.glob.tickPeriod w = .next w' ∧ PreparesBusSleep e w w' := by
  obtain ⟨-, hhandler, -⟩ := timeoutHandlerActsByState e (withChan w (expiryEntry w.chan .timeout)) v
  obtain ⟨tx', -, -, hexpire⟩ := hhandler hs fun _ => hreadable
  exact ⟨_, (tTick_of_due (T := .timeout) hrun hdue).trans hexpire, ⟨rfl, rfl, rfl, rfl⟩⟩

/-- The channel has reached Bus-Sleep, with the events of the transition from Prepare-Bus-Sleep and no bus answer
consumed (R135). -/
structure FallsAsleep (e : Env) (w w' : Work) : Prop where
  mode : w'.chan.mode = .busSleep
  state : w'.chan.state = .busSleep
  back : w'.back = w.back
  events : w'.events = w.events ++ .busSleep e.idx :: scEvents e.glob e.idx .prepareBusSleep .busSleep

/-- R223: the wait-bus-sleep timer due in Prepare-Bus-Sleep. -/
theorem exists_tTick_fallsAsleep {e : Env} {w : Work} (hs : w.chan.state = .prepareBusSleep)
    (hrun : (getTimer w.chan .waitBusSleep).run = true)
    (hdue : (getTimer w.chan .waitBusSleep).cnt.toNat ≤ e.glob.tickPeriod.toNat) :
    ∃ w', tTick (expire e) .waitBusSleep e.glob.tickPeriod w = .next w' ∧ FallsAsleep e w w' := by
  obtain ⟨hhandler, -⟩ := sleepHandlersActByState e (withChan w (expiryEntry w.chan .waitBusSleep))
  exact ⟨_, (tTick_of_due hrun hdue).trans (hhandler hs), ⟨rfl, rfl, rfl, rfl⟩⟩

theorem tickTimers_cons {e : Env} {T : TimerSel} {Ts : List TimerSel} {w w' w'' : Work}
    (h : tTick (expire e) T e.glob.tickPeriod w = .next w') (hrest : tickTimers e Ts w' = .next w'') :
    tickTimers e (T :: Ts) w = .next w'' :=
  andThen_eq_next.mpr ⟨w', h, hrest⟩

/-- The timers that the order of R7 visits after the timeout timer: two that do nothing in Prepare-Bus-Sleep, the
wait-bus-sleep timer, and one that does nothing in Bus-Sleep. -/
theorem exists_tickTimers_fallsAsleep {e : Env} {w : Work} (hs : w.chan.state = .prepareBusSleep)
    (hrun : (getTimer w.chan .waitBusSleep).run = true)
    (hdue : (getTimer w.chan .waitBusSleep).cnt.toNat ≤ e.glob.tickPeriod.toNat) :
    ∃ w', tickTimers e [.msgCycle, .repeatMsg, .waitBusSleep, .remoteSleep] w = .next w' ∧ FallsAsleep e w w' := by
  obtain ⟨mc, hmsgCycle⟩ := exists_tTick_of_asleep e e.glob.tickPeriod (T := .msgCycle) (.inl hs) nofun
  obtain ⟨rm, hrepeatMsg⟩ := exists_tTick_of_asleep e e.glob.tickPeriod (T := .repeatMsg)
    (w := withChan w (setTimer w.chan .msgCycle mc)) (.inl hs) nofun
  obtain ⟨w₃, hwaitBusSleep, hslept⟩ := exists_tTick_fallsAsleep
    (w := withChan w (setTimer (setTimer w.chan .msgCycle mc) .repeatMsg rm)) hs hrun hdue
  obtain ⟨rs, hremoteSleep⟩ := exists_tTick_of_asleep e e.glob.tickPeriod (T := .remoteSleep) (.inr hslept.state) nofun
  exact ⟨_, tickTimers_cons hmsgCycle (tickTimers_cons hrepeatMsg (tickTimers_cons hwaitBusSleep
    (tickTimers_cons hremoteSleep rfl))), ⟨hslept.mode, hslept.state, hslept.back, hslept.events⟩⟩

/-- Settles O45: the timeout handler leaves a wait-bus-sleep timer that is due on the same TICK, visited after it. -/
theorem readySleepCanReachBusSleepInOneTick : Obligations.ReadySleepCanReachBusSleepInOneTick := by
  intro e w v horder hs hrun hdue hshort hreadable
  obtain ⟨w₁, htimeout, hprepared⟩ := exists_tTick_preparesBusSleep hs hrun hdue hreadable
  obtain ⟨w', hrest, hslept⟩ := exists_tickTimers_fallsAsleep (e := e) hprepared.state
    (by rw [hprepared.timer]) (by rwa [hprepared.timer])
  rw [horder, ← hprepared.events, ← hprepared.back]
  exact ⟨w', tickTimers_cons htimeout hrest, hslept.mode, hslept.state, hslept.back, hslept.events⟩

end Sys2Proof.Proofs.Hazards
end

section
/-! PROOFS, family other: R70, R72 to R75. The encoder undoes the decoder, and a step runs what it decodes. -/

namespace Sys2Proof.Proofs.Encoding

open Sys2Proof Sys2Proof.Machine

/-- Settles O2, by `encode_of_decode`: the opcode picks the arm, and the arm reads the other two fields. -/
theorem encodeOfDecodeIsTheWord : Obligations.EncodeOfDecodeIsTheWord := fun _ _ => encode_of_decode

/-- Settles O4: the step takes the command from the port, and the word decodes. That the channel exists is not needed, since
`exec` answers `E_ILLEGAL` itself where it does not. -/
theorem stepRunsTheDecodedCommand : Obligations.StepRunsTheDecodedCommand := by
  intro s c rest i hport hdecode _
  calc step s
    _ = runWord c.word (accept s c rest) := step_of_command hport
    _ = exec i (accept s c rest) := runWord_of_ok hdecode _

end Sys2Proof.Proofs.Encoding
end

section
/-! PROOFS, family other: 93 U1, notes/assumptions/12.md. INIT asks for the number of channel records and for a legal record,
in this order, before it writes anything. -/

namespace Sys2Proof.Proofs.Control

open Sys2Proof Sys2Proof.Machine

/-- INIT asks for the number of channel records first. -/
theorem execInit_of_shape {s : State} (hlen : s.operands.cfg.chans.length ≠ s.nCh) :
    execInit s = .refused .configurationShape := if_pos hlen

/-- 93 U1: past that, INIT asks for a legal record. -/
theorem execInit_of_illegal {s : State} (hlen : s.operands.cfg.chans.length = s.nCh)
    (hillegal : legalCfg s.params s.operands.cfg = false) : execInit s = .refused .illegalConfiguration := by
  unfold execInit
  dsimp only
  rw [if_neg (not_not.mpr hlen), if_neg (ne_true_of_eq_false hillegal)]

/-- Settles O14: by the two checks of INIT. -/
theorem initRefusesWhatIsNoLegalRecord : Obligations.InitRefusesWhatIsNoLegalRecord :=
  fun _ => ⟨execInit_of_shape, execInit_of_illegal⟩

end Sys2Proof.Proofs.Control
end

section
/-! PROOFS, family other: notes/assumptions/2.md and 3.md. Every step keeps the canonical form of the buffers, channel by
channel. -/

namespace Sys2Proof.Proofs.Memory

open Sys2Proof Sys2Proof.Machine

/-- A rule writes a buffer by the framer, by SETUD's write or by the store of a frame, and each keeps the canonical form. -/
theorem memWf_of_ruleFrame {i : Instr} {p : Params} {g : GlobCfg} {c c' : Channel} (h : RuleFrame i p g c c')
    (hc : c.memWf) : c'.memWf := by
  constructor
  · rcases h.tx with hsame | ⟨b, -, hset⟩ | ⟨din, -, hwrite⟩
    · exact hsame ▸ hc.left
    · exact (cbvModify_memWf hc hset).left
    · exact (writeTxFrom_memWf hc hwrite).left
  · rcases h.rx with ⟨hsame, -⟩ | ⟨f, -, hstore⟩
    · exact hsame ▸ hc.right
    · exact (storeRx_memWf hc hstore).right

/-- A tick of one timer writes TX by the framer, and RX not at all. -/
theorem memWf_of_tickFrame {p : Params} {g : GlobCfg} {c c' : Channel} (h : TickFrame p g c c') (hc : c.memWf) :
    c'.memWf := by
  refine ⟨?_, h.rx.left ▸ hc.right⟩
  rcases h.tx with hsame | hclr | hclr
  · exact hsame ▸ hc.left
  · exact (cbvModify_memWf hc hclr).left
  · exact (cbvClrAll_memWf hc hclr).left

theorem exec_keeps_memInv {i : Instr} {s t : State} (hs : MemInv s) (h : exec i s = .next t) : MemInv t :=
  exec_keeps_channelwise (fun _ _ c => c.memWf)
    (fun _ _ _ _ _ ha => memWf_of_ruleFrame (rule_frame _ _ _ _ _ ha))
    (fun e T w w' hu hc ht =>
      have frame := tick_frame e T w w' ht
      ⟨memWf_of_tickFrame frame hc, frame.initialised hu⟩)
    (fun _ _ _ _ _ _ hc => ⟨initTx_wf hc.left, hc.right⟩) (fun _ _ _ _ hc => hc) i s t hs h

/-- Settles O47: every command keeps the form, and after reset the buffers list nothing. -/
theorem buffersKeepTheirCanonicalForm : Obligations.BuffersKeepTheirCanonicalForm :=
  step_keeps_channelwise (fun _ _ c => c.memWf) (fun _ _ _ => exec_keeps_memInv)
    (fun _ => ⟨List.Pairwise.nil, List.Pairwise.nil⟩)

end Sys2Proof.Proofs.Memory
end

section
/-! PROOFS, family other: R13, R15, R16, R36, R40, R52, R145, R222. Every step keeps the whole invariant. The clauses on
pairs, passive blocks, timers and buffers are kept by themselves; what is added here is that an initialised channel keeps a
legal configuration, a complete outgoing frame with the layout of R52, and a newest frame that is there. -/

namespace Sys2Proof.Proofs.Invariant

open Sys2Proof Sys2Proof.Machine Sys2Proof.Proofs.State Sys2Proof.Proofs.Data

/-! ### The control-bit-vector byte -/

/-- R145: the byte has only named bits set. -/
def OnlyNamedBits (p : Params) (v : Byte) : Prop := v &&& ~~~(cbvMask p) = 0

theorem onlyNamedBits_zero (p : Params) : OnlyNamedBits p 0 := BitVec.zero_and

theorem OnlyNamedBits.or {p : Params} {v u : Byte} (hv : OnlyNamedBits p v) (hu : OnlyNamedBits p u) :
    OnlyNamedBits p (v ||| u) := by
  rw [OnlyNamedBits, BitVec.and_comm] at hv hu ⊢
  rw [BitVec.and_or_distrib_left, hv, hu]
  rfl

theorem OnlyNamedBits.and {p : Params} {v : Byte} (hv : OnlyNamedBits p v) (u : Byte) : OnlyNamedBits p (v &&& u) := by
  rw [OnlyNamedBits] at hv ⊢
  rw [BitVec.and_assoc, BitVec.and_comm u, ← BitVec.and_assoc, hv]
  exact BitVec.zero_and

theorem and_not_or_self (m v : Byte) : v &&& ~~~(m ||| v) = 0 := by
  rw [BitVec.not_or, BitVec.and_comm (~~~m), ← BitVec.and_assoc, BitVec.and_not_self]
  exact BitVec.zero_and

theorem and_not_or_of_and_not {v m : Byte} (h : v &&& ~~~m = 0) (u : Byte) : v &&& ~~~(m ||| u) = 0 := by
  rw [BitVec.not_or, ← BitVec.and_assoc, h]
  exact BitVec.zero_and

/-- Each named bit is one of the three joined in the mask. -/
theorem onlyNamedBits_shift {p : Params} {b : Fin 8} (hb : b = p.cbvAw ∨ b = p.cbvRmr ∨ b = p.cbvCsr) :
    OnlyNamedBits p ((1 : Byte) <<< b.val) := by
  rcases hb with rfl | rfl | rfl
  · exact and_not_or_self ..
  · exact and_not_or_of_and_not (and_not_or_of_and_not (and_not_or_self ..) _) _
  · exact and_not_or_of_and_not (and_not_or_self ..) _

/-- Setting a named bit sets no other (R140). -/
theorem OnlyNamedBits.setBit {p : Params} {v : Byte} {b : Fin 8} (hv : OnlyNamedBits p v)
    (hb : b = p.cbvAw ∨ b = p.cbvRmr ∨ b = p.cbvCsr) : OnlyNamedBits p (setBit v b) := hv.or (onlyNamedBits_shift hb)

/-- Clearing a bit sets none (R141). -/
theorem OnlyNamedBits.clearBit {p : Params} {v : Byte} (hv : OnlyNamedBits p v) (b : Fin 8) :
    OnlyNamedBits p (clearBit v b) := hv.and _

/-! ### The outgoing frame -/

/-- The bytes `m` of a transmit buffer under the configuration `f`: each byte of the frame has a value (R40), the
control-bit-vector byte has named bits only (R145), and the node identifier stands in its place (R52). -/
structure TxInOrder (p : Params) (f : ChanCfg) (m : Memory) : Prop where
  readable : ∀ k, k < f.txLen.toNat → (readCell m (txAddr k)).isSome = true
  cbv : present p f.cbvPos = true → OnlyNamedBits p ((readCell m (txAddr f.cbvPos.toNat)).getD 0)
  nid : present p f.nidPos = true → readCell m (txAddr f.nidPos.toNat) = some f.nodeId

theorem ne_absent_of_present {p : Params} {pos : Byte} (h : present p pos = true) : pos ≠ p.absent := of_decide_eq_true h

/-- R36(c): a present field lies before the user data. -/
theorem lt_udOff_of_present {p : Params} {f : ChanCfg} {pos : Byte} (hlegal : legalPos p f pos = true)
    (h : present p pos = true) : pos.toNat < udOff p f := toNat_lt_of_legalPos hlegal (ne_absent_of_present h)

/-- R36(d): the two fields of a legal record are different bytes. -/
theorem nidPos_ne_cbvPos {p : Params} {f : ChanCfg} (hlegal : legalChan p f = true) (hn : present p f.nidPos = true)
    (hc : present p f.cbvPos = true) : f.nidPos.toNat ≠ f.cbvPos.toNat := by
  obtain ⟨-, -, hne⟩ := positions_of_legalChan hlegal
  exact fun heq => hne (ne_absent_of_present hn) (ne_absent_of_present hc) (BitVec.eq_of_toNat_eq heq)

/-- Writing named bits to the control-bit-vector byte. -/
theorem TxInOrder.write_cbv {p : Params} {f : ChanCfg} {m : Memory} {v : Byte} (h : TxInOrder p f m)
    (hlegal : legalChan p f = true) (hpresent : present p f.cbvPos = true) (hv : OnlyNamedBits p v) :
    TxInOrder p f (writeCell m (txAddr f.cbvPos.toNat) v) where
  readable k hk := Tick.isSome_readCell_writeCell (h.readable k hk) _ _
  cbv _ := by rwa [readCell_writeCell, if_pos rfl]
  nid hn := by
    have haddr : txAddr f.nidPos.toNat ≠ txAddr f.cbvPos.toNat := nidPos_ne_cbvPos hlegal hn hpresent
    rw [readCell_writeCell, if_neg haddr, h.nid hn]

/-- The framer's change of the byte, by an operation that sets named bits only. -/
theorem TxInOrder.of_cbvModify {p : Params} {g : Byte → Byte} {c c' : Channel} (h : TxInOrder p c.cfg c.tx)
    (hlegal : legalChan p c.cfg = true) (hg : ∀ v, OnlyNamedBits p v → OnlyNamedBits p (g v))
    (hc' : cbvModify p g c = .next c') : TxInOrder p c.cfg c'.tx := by
  rcases cbvModify_eq_next.mp hc' with ⟨-, rfl⟩ | ⟨hpresent, -, v, hv, rfl⟩
  · exact h
  · have hnamed := h.cbv hpresent
    rw [hv] at hnamed
    exact h.write_cbv hlegal hpresent (hg v hnamed)

theorem TxInOrder.of_cbvClrAll {p : Params} {c c' : Channel} (h : TxInOrder p c.cfg c.tx)
    (hlegal : legalChan p c.cfg = true) (hc' : cbvClrAll p c = .next c') : TxInOrder p c.cfg c'.tx := by
  rcases cbvClrAll_eq_next.mp hc' with ⟨-, rfl⟩ | ⟨hpresent, -, rfl⟩
  · exact h
  · exact h.write_cbv hlegal hpresent (onlyNamedBits_zero p)

/-- R180: the user data begin behind both fields. -/
theorem TxInOrder.write_userData {p : Params} {f : ChanCfg} {m : Memory} (h : TxInOrder p f m)
    (hlegal : legalChan p f = true) (d : List Byte) : TxInOrder p f (writeCells m (txAddr (udOff p f)) d) := by
  obtain ⟨hnid, hcbv, -⟩ := positions_of_legalChan hlegal
  have hbefore : ∀ {k}, k < udOff p f → readCell (writeCells m (txAddr (udOff p f)) d) (txAddr k) = readCell m (txAddr k) :=
    fun hk => by rw [readCell_writeCells, if_neg]; exact fun hin => hk.not_ge hin.left
  refine ⟨fun k hk => ?_, fun hc => ?_, fun hn => ?_⟩
  · rw [readCell_writeCells]
    split
    · rename_i hin
      rw [List.getElem?_eq_getElem (by omega), Option.isSome_some]
    · exact h.readable k hk
  · rw [hbefore (lt_udOff_of_present hcbv hc)]
    exact h.cbv hc
  · rw [hbefore (lt_udOff_of_present hnid hn), h.nid hn]

/-- R150: what INIT leaves in the transmit buffer. -/
theorem txInOrder_initTx {p : Params} {f : ChanCfg} (hlegal : legalChan p f = true) (m : Memory) :
    TxInOrder p f (initTx p f m) where
  readable k hk := by
    rw [readCell_initTx, txAddr, if_pos hk]
    split_ifs <;> rfl
  cbv hc := by
    have hcell : readCell (initTx p f m) (txAddr f.cbvPos.toNat) = some 0 := by
      rw [readCell_initTx, if_neg fun ⟨hn, heq⟩ => nidPos_ne_cbvPos hlegal hn hc heq.symm, if_pos ⟨hc, rfl⟩]
    rw [hcell]
    exact onlyNamedBits_zero p
  nid hn := by rw [readCell_initTx, if_pos ⟨hn, rfl⟩]

theorem TxInOrder.of_ruleFrame {i : Instr} {p : Params} {g : GlobCfg} {c c' : Channel} (h : TxInOrder p c.cfg c.tx)
    (hlegal : legalChan p c.cfg = true) (frame : RuleFrame i p g c c') : TxInOrder p c.cfg c'.tx := by
  rcases frame.tx with hsame | ⟨b, hb, hset⟩ | ⟨din, -, hwrite⟩
  · rwa [hsame]
  · exact h.of_cbvModify (c' := { c with tx := c'.tx }) hlegal (fun v hv => hv.setBit hb) hset
  · have htx : c'.tx = writeCells c.tx (txAddr (udOff p c.cfg)) din :=
      congrArg Channel.tx (writeTxFrom_eq_next.mp hwrite).right
    rw [htx]
    exact h.write_userData hlegal din

theorem TxInOrder.of_tickFrame {p : Params} {g : GlobCfg} {c c' : Channel} (h : TxInOrder p c.cfg c.tx)
    (hlegal : legalChan p c.cfg = true) (frame : TickFrame p g c c') : TxInOrder p c.cfg c'.tx := by
  rcases frame.tx with hsame | hclr | hclr
  · rwa [hsame]
  · exact h.of_cbvModify (c' := { c with tx := c'.tx }) hlegal (fun v hv => hv.clearBit _) hclr
  · exact h.of_cbvClrAll (c' := { c with tx := c'.tx }) hlegal hclr

/-! ### The newest frame -/

/-- R16: `rx_last` is `NONE`, or the newest frame is there. -/
def RxInOrder (c : Channel) : Prop := c.rxLast = Config.rxNone ∨ RxReadable c

theorem RxInOrder.of_sameRing {c c' : Channel} (h : RxInOrder c) (hsame : SameRing c c') : RxInOrder c' := by
  obtain ⟨hcfg, hlast, hrx⟩ := hsame
  simpa only [RxInOrder, RxReadable, SlotReadable, hcfg, hlast, hrx] using h

/-- A newest frame is readable, byte by byte. -/
theorem rxReadable_of_newestFrame {c : Channel} {f : List Byte} (h : NewestFrame c f) : RxReadable c := by
  refine ⟨h.received, h.inRing, fun k hk => ?_⟩
  rw [h.bytes k hk, List.getElem?_eq_getElem (h.length ▸ hk), Option.isSome_some]

theorem RxInOrder.of_ruleFrame {i : Instr} {p : Params} {g : GlobCfg} {c c' : Channel} (h : RxInOrder c)
    (hlegal : legalChan p c.cfg = true) (frame : RuleFrame i p g c c') : RxInOrder c' := by
  rcases frame.rx with ⟨hrx, hlast⟩ | ⟨f, hlen, hstore⟩
  · exact h.of_sameRing ⟨frame.cfg, hlast, hrx⟩
  · obtain ⟨hdepth, -, -⟩ := bounds_of_legalChan hlegal
    have heq : ({ c with rx := c'.rx, rxLast := c'.rxLast } : Channel) = stored c f := (storeRx_eq_next.mp hstore).right
    have hring : SameRing (stored c f) c' := ⟨frame.cfg, congrArg (·.rxLast) heq, congrArg (·.rx) heq⟩
    exact .inr (rxReadable_of_newestFrame ((newestFrame_stored hdepth hlen).of_sameRing hring))

/-! ### An initialised channel -/

/-- A legal configuration (R36), with both buffers in order for it. -/
structure ChannelInOrder (p : Params) (c : Channel) : Prop where
  legal : legalChan p c.cfg = true
  tx : TxInOrder p c.cfg c.tx
  rx : RxInOrder c

/-- The two clauses of the invariant on an initialised channel. -/
theorem channelInOrder_iff {p : Params} {c : Channel} : ChannelInOrder p c ↔ ReadyChannel p c ∧ FrameLayout p c :=
  ⟨fun ⟨hlegal, htx, hrx⟩ => ⟨⟨hlegal, htx.readable, hrx⟩, htx.cbv, htx.nid⟩,
    fun ⟨⟨hlegal, hreadable, hrx⟩, hcbv, hnid⟩ => ⟨hlegal, ⟨hreadable, hcbv, hnid⟩, hrx⟩⟩

theorem ChannelInOrder.of_ruleFrame {i : Instr} {p : Params} {g : GlobCfg} {c c' : Channel} (h : ChannelInOrder p c)
    (frame : RuleFrame i p g c c') : ChannelInOrder p c' where
  legal := frame.cfg ▸ h.legal
  tx := frame.cfg ▸ h.tx.of_ruleFrame h.legal frame
  rx := h.rx.of_ruleFrame h.legal frame

theorem ChannelInOrder.of_tickFrame {p : Params} {g : GlobCfg} {c c' : Channel} (h : ChannelInOrder p c)
    (frame : TickFrame p g c c') : ChannelInOrder p c' where
  legal := frame.cfg ▸ h.legal
  tx := frame.cfg ▸ h.tx.of_tickFrame h.legal frame
  rx := h.rx.of_sameRing ⟨frame.cfg, frame.rx.right, frame.rx.left⟩

theorem channelInOrder_initChannel {p : Params} {f : ChanCfg} (hlegal : legalChan p f = true) (g : GlobCfg)
    (c : Channel) : ChannelInOrder p (initChannel p g f c) where
  legal := hlegal
  tx := txInOrder_initTx hlegal c.tx
  rx := .inl rfl

/-! ### Steps -/

/-- Every initialised channel is in order. -/
def ChannelsInOrder (s : State) : Prop := ∀ c ∈ s.chans, c.state ≠ .uninit → ChannelInOrder s.params c

theorem exec_keeps_channelsInOrder {i : Instr} {s t : State} (hs : ChannelsInOrder s) (h : exec i s = .next t) :
    ChannelsInOrder t :=
  exec_keeps_channelwise (fun p _ c => c.state ≠ .uninit → ChannelInOrder p c)
    (fun _ _ _ _ _ ha hc hu' =>
      have frame := rule_frame _ _ _ _ _ ha
      (hc fun hu => hu' (frame.uninit hu ▸ hu)).of_ruleFrame frame)
    (fun e T w w' hu hc ht =>
      have frame := tick_frame e T w w' ht
      ⟨fun _ => (hc hu).of_tickFrame frame, frame.initialised hu⟩)
    (fun _ g _ _ c hlegal _ _ => channelInOrder_initChannel hlegal g c)
    (fun _ _ _ _ _ hu => absurd rfl hu) i s t hs h

theorem step_keeps_channelsInOrder {s t : State} (hs : ChannelsInOrder s) (h : step s = .next t) : ChannelsInOrder t :=
  step_keeps_channelwise (fun p _ c => c.state ≠ .uninit → ChannelInOrder p c) (fun _ _ _ => exec_keeps_channelsInOrder)
    (fun _ hu => absurd rfl hu) s t hs h

/-- R7: no command writes the parameters. -/
theorem exec_params {i : Instr} {s t : State} (h : exec i s = .next t) : t.params = s.params := by
  cases hi : i.channel? with
  | some ch => rcases exec_channel_eq_next hi h with ⟨-, rfl⟩ | ⟨c, a, -, -, rfl⟩ <;> rfl
  | none =>
    rcases channel?_eq_none hi with rfl | rfl | rfl
    · obtain ⟨-, -, rfl⟩ := execInit_eq_next h
      rfl
    · rcases execDeinit_eq_next h with ⟨-, rfl⟩ | ⟨-, rfl⟩ <;> rfl
    · rcases execTick_eq_next h with ⟨-, r, -, rfl⟩ | ⟨-, rfl⟩ <;> rfl

/-- R7: no step writes the parameters or changes the number of channels. -/
theorem step_params_nCh {s t : State} (h : step s = .next t) : t.params = s.params ∧ t.nCh = s.nCh := by
  rcases step_eq_next h with ⟨-, rfl⟩ | ⟨rest, -, rfl⟩ | ⟨c, rest, err, -, -, rfl⟩ | ⟨c, rest, i, -, -, h⟩
  · exact ⟨rfl, rfl⟩
  · exact ⟨rfl, List.length_replicate⟩
  · exact ⟨rfl, rfl⟩
  · exact ⟨exec_params (s := accept s c rest) h, exec_chans_length (s := accept s c rest) h⟩

/-- Settles O50, clause by clause. -/
theorem everyStepKeepsTheInvariant : Obligations.EveryStepKeepsTheInvariant := by
  intro s t hinv h
  obtain ⟨hparams, hcount⟩ := step_params_nCh h
  have horder : ChannelsInOrder t := step_keeps_channelsInOrder
    (fun c hc hu => channelInOrder_iff.mpr ⟨hinv.ready c hc hu, hinv.frame c hc hu⟩) h
  exact {
    params := hparams ▸ hinv.params
    channels := hcount ▸ hinv.channels
    pair := step_keeps_pairInv hinv.pair h
    memory := Memory.buffersKeepTheirCanonicalForm s t hinv.memory h
    passive := passiveBlockNeverTransmits.left s t hinv.passive h
    repeatTimer := Exceptions.repeatTimerRunsInRepeatMessageOnly s t hinv.pair hinv.repeatTimer h
    ready := fun c hc hu => (channelInOrder_iff.mp (horder c hc hu)).left
    frame := fun c hc hu => (channelInOrder_iff.mp (horder c hc hu)).right }

end Sys2Proof.Proofs.Invariant
end
